-- ==== Sys2Proof/Word.lean ====
section
/-! DEFINITION. The words of the unit's port and the abstract value types of `00_scope.md` rule R7:
the request and response words, the four enumerations, the parameter record and the operand records.
Types only; every function over them stands in `Decode.lean` or under `Machine/`. -/

namespace Sys2Proof

/-- One byte: bit 0 is the least significant bit (rule R5). -/
abbrev Byte := BitVec 8

/-- The request word `REQ`, 48 bits (rule R31). -/
abbrev Request := BitVec 48

/-- The response word `RSP`, 64 bits (rule R42). -/
abbrev Response := BitVec 64

/-- `Channel = {1, 2, 3, 4}` (rule R7). -/
inductive Channel
  | ch1 | ch2 | ch3 | ch4
  deriving DecidableEq, Repr

/-- `Mode = {Continuous, OneShot}` (rule R7). -/
inductive Mode
  | continuous | oneShot
  deriving DecidableEq, Repr

/-- `Gain = {x1, x2, x4, x8}` (rule R7). -/
inductive Gain
  | x1 | x2 | x4 | x8
  deriving DecidableEq, Repr

/-- `Resolution = {12, 14, 16, 18}` bits (rule R7). -/
inductive Resolution
  | r12 | r14 | r16 | r18
  deriving DecidableEq, Repr

/-- The structured parameter set, every field inside its enumeration (rule R7). -/
structure Parameters where
  channel : Channel
  /-- Write side: start a one-shot conversion.  Read side: a fresh sample is not yet ready.
  The unit only moves this flag (rules R7, R14). -/
  readyOrConverting : Bool
  mode : Mode
  gain : Gain
  resolution : Resolution
  deriving DecidableEq, Repr

/-- `Reading`: the parameters and the voltage, as the Q9 integer that stands for `uvQ9 / 512`
microvolts (rules R7, R65).  The exact rational is `Reading.microVolt`. -/
structure Reading where
  params : Parameters
  uvQ9 : Int
  deriving DecidableEq, Repr

/-- The `PARAMS` port word with its fields named (rule R40).  `pRes` … `pCh` are the five present
bits; `mode` is 1 for Continuous; `res`, `gain`, `ch` carry natural numbers and may hold values
outside their enumerations (rule R41). -/
structure ParamsWord where
  pRes : Bool
  pGain : Bool
  pMode : Bool
  pRdy : Bool
  pCh : Bool
  res : BitVec 5
  gain : BitVec 4
  mode : Bool
  rdy : Bool
  ch : BitVec 3
  deriving DecidableEq, Repr

/-- The buffer operand of formats X and B: the number of bytes `LEN` and the four byte lanes
(rules R37, R39).  Read it through `Buffer.read` only: lanes at or beyond `LEN` are don't-care. -/
structure Buffer where
  len : BitVec 3
  b0 : Byte
  b1 : Byte
  b2 : Byte
  b3 : Byte
  deriving DecidableEq, Repr

end Sys2Proof
end

