-- ==== Sys2Proof/Config.lean ====
section
/-! DEFINITION. The implementation parameters of `00_scope.md` rule R4.  All but one are fixed and
appear as the widths of the types and as the constant tables; the one the spec leaves `OPEN` is a
field here.  The spec leaves no value of any result open, so there is no free value. -/

namespace Sys2Proof

/-- What an implementation fixes (rule R4). -/
structure Config where
  /-- `STRICT_LEN`: whether a buffer shorter than its frame is an error (rule R30). -/
  strictLen : Bool
  deriving DecidableEq, Repr

/-- The value decided for this hardware: short buffers are zero-filled (rules R4, R30;
decision D7). -/
def Config.thisHardware : Config := { strictLen := false }

/-- `BUF_CAP`, the number of byte lanes of the buffer operand (rules R4, R18). -/
def Config.bufCap : Nat := 4

end Sys2Proof
end

