-- ==== Sys2Proof/Machine/State.lean ====
section
/-! DEFINITION. The machine's state, the error conditions and the refusal type.
The unit itself holds no state (`10_state.md` rules R9 to R12, R15 to R17); what stands here is the
configuration parameter and the unit's two ports: the request words the host has presented and the
response words the unit has given. -/

namespace Sys2Proof.Machine

/-- The error conditions (`60_exceptions.md` rule R72): the FAULT OUTCOME of one evaluation, carrying
the status name (rule R77).  They are the error side of the evaluation `evalInstr`; the machine
turns one into a response word and goes on (rules R77, R78), so no step of the machine ends in
`Outcome.fault`.  Exact, hence safe: log entries 2 and 3. -/
inductive Fault
  /-- A field an operation reads holds a value outside its enumeration.  Raised by ENC, BCNT, XTR and
  VOLT (rule R73).  Safe: the spec's own outcome. -/
  | invalidParameter
  /-- The buffer is shorter than a frame.  Raised by XTR and PROC, only when `STRICT_LEN` is true
  (rule R74).  Safe: the spec's own outcome. -/
  | invalidBufferLength
  /-- The request word spells no operation.  Raised for any malformed request word and for the
  reserved operation code (rule R75).  Safe: the spec's own outcome. -/
  | illegalRequest
  deriving DecidableEq, Repr

/-- Why a step is refused. -/
inductive Refusal
  /-- No meaning for the instruction yet.  Raised by no arm: every row of the opcode table has its
  meaning.  Safe. -/
  | notModelled (mnemonic : String)
  deriving DecidableEq, Repr

/-- The result of an operation that ends with `OK`, before it is packed into the response word
(the column "content" of `30_encoding.md` rule R44). -/
inductive Result
  /-- ADDR: the slave address. -/
  | address (a : Byte)
  /-- ENC: the configuration byte. -/
  | configByte (cfg : Byte)
  /-- DEC: a full parameter record. -/
  | params (p : Parameters)
  /-- BCNT: the byte count. -/
  | byteCount (n : Nat)
  /-- XTR: the signed output code. -/
  | outputCode (code : Int)
  /-- VOLT: the microvolt result in Q9. -/
  | microvolts (uvQ9 : Int)
  /-- PROC: the reading. -/
  | reading (r : Reading)
  deriving DecidableEq, Repr

/-- The state of the machine.  `config` is fixed for a run; `requests` is the host's input and
`responses` the unit's output.  No operation reads `responses` (rules R11, R27). -/
structure State where
  /-- The configuration parameter `STRICT_LEN` (rules R4, R9, R30).  No step changes it. -/
  config : Config
  /-- The request words the host has presented and the unit has not answered, in the host's order
  (rules R10, R31). -/
  requests : List Request
  /-- The response words given so far, oldest first (rule R42). -/
  responses : List Response
  deriving DecidableEq, Repr

/-- The machine right after reset: there is nothing to set (rules R16, R83).  The parameter has the
value of this hardware (rule R30), no request is presented and no response given (log entry 4). -/
def State.reset : State := { config := Config.thisHardware, requests := [], responses := [] }

end Sys2Proof.Machine
end

