-- ==== Sys2Proof/Machine/Flags.lean ====
section
/-! DEFINITION. The flag tables of the configuration byte (`41_config_codec.md` rule R52) and the
`STATUS` field of the response (`30_encoding.md` rules R42 to R44).  The unit has no condition flags:
`STATUS` is an output of the one response and nothing reads it (`10_state.md` rule R11). -/

namespace Sys2Proof.Machine

/-- `CH_FLAG` (rule R52). -/
def channelFlag : Channel → Byte
  | .ch1 => 0x00#8
  | .ch2 => 0x20#8
  | .ch3 => 0x40#8
  | .ch4 => 0x60#8

/-- `RDY_FLAG` (rule R52). -/
def readyFlag : Bool → Byte
  | true => 0x80#8
  | false => 0x00#8

/-- `MODE_FLAG` (rule R52). -/
def modeFlag : Mode → Byte
  | .continuous => 0x10#8
  | .oneShot => 0x00#8

/-- `GAIN_FLAG` (rule R52). -/
def gainFlag : Gain → Byte
  | .x1 => 0x00#8
  | .x2 => 0x01#8
  | .x4 => 0x02#8
  | .x8 => 0x03#8

/-- `RES_FLAG` (rule R52). -/
def resolutionFlag : Resolution → Byte
  | .r12 => 0x00#8
  | .r14 => 0x04#8
  | .r16 => 0x08#8
  | .r18 => 0x0c#8

/-- The status code `OK` (rule R43). -/
def statusOk : BitVec 2 := 0b00#2

/-- The status code of an error condition (rules R43, R72). -/
def statusOfFault : Fault → BitVec 2
  | .invalidParameter => 0b01#2
  | .invalidBufferLength => 0b10#2
  | .illegalRequest => 0b11#2

/-- `RSP[63:62]` (rule R42). -/
def statusField (r : Response) : BitVec 2 := r.extractLsb' 62 2

/-- `RSP[61:0]` (rule R42). -/
def payloadField (r : Response) : BitVec 62 := r.extractLsb' 0 62

end Sys2Proof.Machine
end

