-- ==== Sys2Proof/Syntax.lean ====
section
/-! DEFINITION. The operations of the unit: one constructor per row of `spec/opcode_table.json`
(rule R32), with the operand fields of the row's format (rules R33 to R39). -/

namespace Sys2Proof

/-- One operation with its operands.  `RES`, `GAIN` and the `PARAMS` fields are kept as the raw
natural-number port fields of rule R41, because a value outside the enumeration is a legal request
that ends with `InvalidParameter`. -/
inductive Instr
  /-- ADDR, format A (rule R33): the three strap pins, in the order of the mnemonic. -/
  | addr (a0 a1 a2 : Bool)
  /-- ENC, format P (rule R34). -/
  | enc (params : ParamsWord)
  /-- DEC, format C (rule R35): the configuration byte. -/
  | dec (cfg : Byte)
  /-- BCNT, format R (rule R36). -/
  | bcnt (res : BitVec 5)
  /-- XTR, format X (rule R37). -/
  | xtr (res : BitVec 5) (buf : Buffer)
  /-- VOLT, format V (rule R38): `code` is 19-bit two's complement. -/
  | volt (res : BitVec 5) (gain : BitVec 4) (code : BitVec 19)
  /-- PROC, format B (rule R39). -/
  | proc (buf : Buffer)
  /-- The reserved operation code `OP = 111` (rules R45, R75): the other 45 bits are not looked at. -/
  | reservedOp7 (ignored : BitVec 45)
  deriving DecidableEq, Repr

end Sys2Proof
end

