-- ==== Sys2Proof/WellFormed.lean ====
section
/-! DEFINITION. When an `Instr` is one a request word can spell.  The types carry the field widths;
the one relation they do not carry is `LEN ≤ 4` (rules R37, R39, R45 (c)). -/

namespace Sys2Proof

/-- `LEN` is 0 to `BUF_CAP`; 5, 6 and 7 are illegal (rule R45 (c)). -/
def Buffer.wellFormed (b : Buffer) : Bool := decide (b.len.toNat ≤ Config.bufCap)

/-- The instruction is spelled by some request word. -/
def Instr.wellFormed : Instr → Bool
  | .addr _ _ _ => true
  | .enc _ => true
  | .dec _ => true
  | .bcnt _ => true
  | .xtr _ buf => buf.wellFormed
  | .volt _ _ _ => true
  | .proc buf => buf.wellFormed
  | .reservedOp7 _ => true

end Sys2Proof
end

