-- ==== Sys2Proof/Decode.lean ====
section
/-! DEFINITION. The request decoder, total on all `2^48` words and rejecting by name, and the encoder,
both from the encoding tables of `30_encoding.md` (rules R31 to R41, R45). -/

namespace Sys2Proof

/-- The operation code `OP = REQ[47:45]` (rules R31, R32). -/
inductive Opcode
  | addr | enc | dec | bcnt | xtr | volt | proc | reserved
  deriving DecidableEq, Repr

/-- Why a request word spells no operation (rule R45).  Cause (a), `OP = 111`, decodes to
`Instr.reservedOp7`, which is the opcode table's row for it and answers `IllegalRequest`. -/
inductive IllegalCause
  /-- A must-be-zero bit of the operation's format is 1 (rule R45 (b)). -/
  | mustBeZero (op : Opcode)
  /-- `LEN > 4` (rule R45 (c)). -/
  | bufferLength (op : Opcode)
  deriving DecidableEq, Repr

/-- The column `OP` of rule R32. -/
def Opcode.bits : Opcode → BitVec 3
  | .addr => 0b000#3
  | .enc => 0b001#3
  | .dec => 0b010#3
  | .bcnt => 0b011#3
  | .xtr => 0b100#3
  | .volt => 0b101#3
  | .proc => 0b110#3
  | .reserved => 0b111#3

/-- The column `OP` of rule R32, read the other way. -/
def Opcode.ofBits (b : BitVec 3) : Opcode :=
  match b.toNat with
  | 0 => .addr
  | 1 => .enc
  | 2 => .dec
  | 3 => .bcnt
  | 4 => .xtr
  | 5 => .volt
  | 6 => .proc
  | _ => .reserved

/-- The `match` word of each format (rules R33 to R39; the opcode table for `OP = 111`). -/
def Opcode.matchWord : Opcode → Request
  | .addr => 0x0000_0000_0000#48
  | .enc => 0x2000_0000_0000#48
  | .dec => 0x4000_0000_0000#48
  | .bcnt => 0x6000_0000_0000#48
  | .xtr => 0x8000_0000_0000#48
  | .volt => 0xa000_0000_0000#48
  | .proc => 0xc000_0000_0000#48
  | .reserved => 0xe000_0000_0000#48

/-- The `mask` word of each format: the operation code and the must-be-zero bits (rules R33 to R39). -/
def Opcode.maskWord : Opcode → Request
  | .addr => 0xffff_ffff_fff8#48
  | .enc => 0xffff_fff8_0000#48
  | .dec => 0xffff_ffff_ff00#48
  | .bcnt => 0xffff_ffff_ffe0#48
  | .xtr => 0xff00_0000_0000#48
  | .volt => 0xffff_f000_0000#48
  | .proc => 0xfff8_0000_0000#48
  | .reserved => 0xe000_0000_0000#48

/-- `OP = REQ[47:45]` (rule R31). -/
def opcodeOf (w : Request) : Opcode := Opcode.ofBits (w.extractLsb' 45 3)

/-- The `PARAMS` word's fields at their bits (rule R40). -/
def ParamsWord.ofBits (w : BitVec 19) : ParamsWord where
  pRes := w.getLsbD 18
  pGain := w.getLsbD 17
  pMode := w.getLsbD 16
  pRdy := w.getLsbD 15
  pCh := w.getLsbD 14
  res := w.extractLsb' 9 5
  gain := w.extractLsb' 5 4
  mode := w.getLsbD 4
  rdy := w.getLsbD 3
  ch := w.extractLsb' 0 3

/-- The `PARAMS` word assembled from its fields, high-order field first (rule R40). -/
def ParamsWord.toBits (p : ParamsWord) : BitVec 19 :=
  BitVec.ofBool p.pRes ++ BitVec.ofBool p.pGain ++ BitVec.ofBool p.pMode ++ BitVec.ofBool p.pRdy
    ++ BitVec.ofBool p.pCh ++ p.res ++ p.gain ++ BitVec.ofBool p.mode ++ BitVec.ofBool p.rdy ++ p.ch

/-- `LEN` at 34:32 and the lanes `B0` … `B3` at 31:0, first byte highest (rules R37, R39). -/
def bufferOf (w : Request) : Buffer where
  len := w.extractLsb' 32 3
  b0 := w.extractLsb' 24 8
  b1 := w.extractLsb' 16 8
  b2 := w.extractLsb' 8 8
  b3 := w.extractLsb' 0 8

/-- The low 35 bits of formats X and B (rules R37, R39). -/
def bufferBits (b : Buffer) : BitVec 35 := b.len ++ b.b0 ++ b.b1 ++ b.b2 ++ b.b3

/-- The operand fields of a word whose operation code and must-be-zero bits are already checked
(rules R33 to R39), with the check of `LEN` (rule R45 (c)). -/
def decodeOperands (op : Opcode) (w : Request) : Except IllegalCause Instr :=
  match op with
  | .addr => .ok (.addr (w.getLsbD 0) (w.getLsbD 1) (w.getLsbD 2))
  | .enc => .ok (.enc (ParamsWord.ofBits (w.extractLsb' 0 19)))
  | .dec => .ok (.dec (w.extractLsb' 0 8))
  | .bcnt => .ok (.bcnt (w.extractLsb' 0 5))
  | .xtr =>
    if (bufferOf w).wellFormed then .ok (.xtr (w.extractLsb' 35 5) (bufferOf w))
    else .error (.bufferLength .xtr)
  | .volt => .ok (.volt (w.extractLsb' 23 5) (w.extractLsb' 19 4) (w.extractLsb' 0 19))
  | .proc =>
    if (bufferOf w).wellFormed then .ok (.proc (bufferOf w))
    else .error (.bufferLength .proc)
  | .reserved => .ok (.reservedOp7 (w.extractLsb' 0 45))

/-- The decoder: total on all request words (rule R45).  A word is rejected, by name, when
`(REQ & mask) ≠ match` for the row of its `OP`, or when its `LEN` is above 4. -/
def decode (w : Request) : Except IllegalCause Instr :=
  if w &&& (opcodeOf w).maskWord = (opcodeOf w).matchWord then decodeOperands (opcodeOf w) w
  else .error (.mustBeZero (opcodeOf w))

/-- The operation code of an instruction (rule R32). -/
def opcodeOfInstr : Instr → Opcode
  | .addr _ _ _ => .addr
  | .enc _ => .enc
  | .dec _ => .dec
  | .bcnt _ => .bcnt
  | .xtr _ _ => .xtr
  | .volt _ _ _ => .volt
  | .proc _ => .proc
  | .reservedOp7 _ => .reserved

/-- The request word of an instruction, its must-be-zero bits 0 (rules R33 to R39). -/
def encode : Instr → Request
  | .addr a0 a1 a2 => 0b000#3 ++ 0#42 ++ BitVec.ofBool a2 ++ BitVec.ofBool a1 ++ BitVec.ofBool a0
  | .enc params => 0b001#3 ++ 0#26 ++ params.toBits
  | .dec cfg => 0b010#3 ++ 0#37 ++ cfg
  | .bcnt res => 0b011#3 ++ 0#40 ++ res
  | .xtr res buf => 0b100#3 ++ 0#5 ++ res ++ bufferBits buf
  | .volt res gain code => 0b101#3 ++ 0#17 ++ res ++ gain ++ code
  | .proc buf => 0b110#3 ++ 0#10 ++ bufferBits buf
  | .reservedOp7 ignored => 0b111#3 ++ ignored

/-- The table row's bits as a request word: bit `i` of `w` is `REQ[i]`, bits at and above `nbits`
are 0.  A request is ONE 48-bit word (rule R31), so no byte order enters. -/
def tableWord (nbits w : Nat) : Request := BitVec.ofNat 48 (w % 2 ^ nbits)

/-- The instruction the decoder reads from a word numbered as `spec/opcode_table.json` numbers it. -/
def decodeTableWord (nbits w : Nat) : Option Instr :=
  match decode (tableWord nbits w) with
  | .ok i => some i
  | .error _ => none

end Sys2Proof
end

