-- ==== Sys2Proof/Machine/Operands.lean ====
section
/-! DEFINITION. Operand forms: the natural-number port fields and their legal sets
(`30_encoding.md` rule R41), the `PARAMS` word with its default fill (`41_config_codec.md` rule R53),
and the byte lanes of the buffer operand (`20_memory.md` rule R19). -/

namespace Sys2Proof

/-- `CH` (rule R41): 0, 5, 6 and 7 are outside the enumeration. -/
def Channel.ofField? (f : BitVec 3) : Option Channel :=
  match f.toNat with
  | 1 => some .ch1
  | 2 => some .ch2
  | 3 => some .ch3
  | 4 => some .ch4
  | _ => none

/-- The channel's number in the `CH` field (rule R41). -/
def Channel.field : Channel → BitVec 3
  | .ch1 => 1#3
  | .ch2 => 2#3
  | .ch3 => 3#3
  | .ch4 => 4#3

/-- `GAIN` (rule R41): anything but 1, 2, 4 and 8 is outside the enumeration. -/
def Gain.ofField? (f : BitVec 4) : Option Gain :=
  match f.toNat with
  | 1 => some .x1
  | 2 => some .x2
  | 4 => some .x4
  | 8 => some .x8
  | _ => none

/-- The gain's multiplier in the `GAIN` field (rule R41). -/
def Gain.field : Gain → BitVec 4
  | .x1 => 1#4
  | .x2 => 2#4
  | .x4 => 4#4
  | .x8 => 8#4

/-- `RES` (rule R41): anything but 12, 14, 16 and 18 is outside the enumeration. -/
def Resolution.ofField? (f : BitVec 5) : Option Resolution :=
  match f.toNat with
  | 12 => some .r12
  | 14 => some .r14
  | 16 => some .r16
  | 18 => some .r18
  | _ => none

/-- The resolution's bit count in the `RES` field (rule R41). -/
def Resolution.field : Resolution → BitVec 5
  | .r12 => 12#5
  | .r14 => 14#5
  | .r16 => 16#5
  | .r18 => 18#5

/-- The resolution as a number of bits (rule R7). -/
def Resolution.bits : Resolution → Nat
  | .r12 => 12
  | .r14 => 14
  | .r16 => 16
  | .r18 => 18

/-- The index helper `k(resolution)` (rule R8). -/
def Resolution.index : Resolution → Nat
  | .r12 => 0
  | .r14 => 1
  | .r16 => 2
  | .r18 => 3

/-- The index helper `g(gain)` (rule R8). -/
def Gain.index : Gain → Nat
  | .x1 => 0
  | .x2 => 1
  | .x4 => 2
  | .x8 => 3

/-- The index helper `c(channel)` (rule R8). -/
def Channel.index : Channel → Nat
  | .ch1 => 0
  | .ch2 => 1
  | .ch3 => 2
  | .ch4 => 3

/-- `MODE` (rule R41): 1 is Continuous. -/
def Mode.ofField : Bool → Mode
  | true => .continuous
  | false => .oneShot

/-- The mode's bit in the `MODE` field (rule R41). -/
def Mode.field : Mode → Bool
  | .continuous => true
  | .oneShot => false

/-- The default parameter set (rule R53). -/
def Parameters.default : Parameters where
  channel := .ch1
  readyOrConverting := true
  mode := .continuous
  gain := .x1
  resolution := .r12

/-- The channel an ENC operand asks for: the field when present, else the default; `none` when the
present field is outside its enumeration (rules R53, R54). -/
def ParamsWord.channel? (p : ParamsWord) : Option Channel :=
  if p.pCh then Channel.ofField? p.ch else some Parameters.default.channel

/-- The gain an ENC operand asks for (rules R53, R54). -/
def ParamsWord.gain? (p : ParamsWord) : Option Gain :=
  if p.pGain then Gain.ofField? p.gain else some Parameters.default.gain

/-- The resolution an ENC operand asks for (rules R53, R54). -/
def ParamsWord.resolution? (p : ParamsWord) : Option Resolution :=
  if p.pRes then Resolution.ofField? p.res else some Parameters.default.resolution

/-- The mode an ENC operand asks for; one bit, never invalid (rules R53, R54). -/
def ParamsWord.modeOrDefault (p : ParamsWord) : Mode :=
  if p.pMode then Mode.ofField p.mode else Parameters.default.mode

/-- The ready flag an ENC operand asks for; one bit, never invalid (rules R53, R54). -/
def ParamsWord.readyOrDefault (p : ParamsWord) : Bool :=
  if p.pRdy then p.rdy else Parameters.default.readyOrConverting

/-- `fill` with the checks of ENC (rules R53, R54): the parameters an ENC operand stands for, or
`InvalidParameter` when a PRESENT field holds a value outside its enumeration.  The value bits of an
absent field are ignored and not checked (rule R40). -/
def ParamsWord.fill (p : ParamsWord) : Except Machine.Fault Parameters :=
  match p.channel?, p.gain?, p.resolution? with
  | some c, some g, some r =>
    .ok { channel := c, readyOrConverting := p.readyOrDefault, mode := p.modeOrDefault,
          gain := g, resolution := r }
  | _, _, _ => .error .invalidParameter

/-- A parameter record as a `PARAMS` word: all five present bits 1 (rules R40, R55). -/
def ParamsWord.ofParameters (p : Parameters) : ParamsWord where
  pRes := true
  pGain := true
  pMode := true
  pRdy := true
  pCh := true
  res := p.resolution.field
  gain := p.gain.field
  mode := p.mode.field
  rdy := p.readyOrConverting
  ch := p.channel.field

/-- The byte lane `b[i]` of the request word (rules R37, R39); there are `BUF_CAP = 4` lanes. -/
def Buffer.lane (b : Buffer) : Nat → Byte
  | 0 => b.b0
  | 1 => b.b1
  | 2 => b.b2
  | 3 => b.b3
  | _ => 0#8

/-- The buffer read primitive `B(i) = MemRead(i, 1)` (rule R19): byte `i` when `i < LEN`, else 0.
It never fails, and a lane at or beyond `LEN` is never looked at. -/
def Buffer.read (b : Buffer) (i : Nat) : Byte := if i < b.len.toNat then b.lane i else 0#8

/-- The buffer's last byte, `B(LEN - 1)`; 0 for the empty buffer (rule R69; decision D8). -/
def Buffer.lastByte (b : Buffer) : Byte :=
  if 1 ≤ b.len.toNat then b.read (b.len.toNat - 1) else 0#8

/-- The buffer operand that carries a byte sequence: `LEN` is the number of bytes, unused lanes are 0.
More than `BUF_CAP` bytes do not fit a request (rules R18, R47). -/
def Buffer.ofBytes? : List Byte → Option Buffer
  | [] => some { len := 0#3, b0 := 0#8, b1 := 0#8, b2 := 0#8, b3 := 0#8 }
  | [a] => some { len := 1#3, b0 := a, b1 := 0#8, b2 := 0#8, b3 := 0#8 }
  | [a, b] => some { len := 2#3, b0 := a, b1 := b, b2 := 0#8, b3 := 0#8 }
  | [a, b, c] => some { len := 3#3, b0 := a, b1 := b, b2 := c, b3 := 0#8 }
  | [a, b, c, d] => some { len := 4#3, b0 := a, b1 := b, b2 := c, b3 := d }
  | _ => none

end Sys2Proof
end

