-- ==== Sys2Proof/Machine/Ops.lean ====
section
/-! DEFINITION. The shared operations of the machine: packing a response word (`30_encoding.md` rules
R42 to R44), taking the next request, giving a response, and raising an error condition
(`60_exceptions.md` rule R77).  There is no return operation: nothing was saved (rule R78). -/

namespace Sys2Proof.Machine

/-- The result payload `RSP[61:0]`: the rows of rule R44, every bit they do not name 0 (rule R42).
`sext_N` is two's-complement packing of a signed result (rule R6). -/
def payloadOf : Result → BitVec 62
  | .address a => a.setWidth 62
  | .configByte cfg => cfg.setWidth 62
  | .params p => (ParamsWord.ofParameters p).toBits.setWidth 62
  | .byteCount n => (BitVec.ofNat 3 n).setWidth 62
  | .outputCode code => (BitVec.ofInt 19 code).setWidth 62
  | .microvolts uvQ9 => (BitVec.ofInt 38 uvQ9).setWidth 62
  | .reading r => ((ParamsWord.ofParameters r.params).toBits ++ BitVec.ofInt 38 r.uvQ9).setWidth 62

/-- The response to an evaluation that ends with `OK` (rules R42, R44). -/
def okResponse (r : Result) : Response := statusOk ++ payloadOf r

/-- The response to an evaluation that ends with an error: its status and a zero payload
(rules R42, R77). -/
def errorResponse (f : Fault) : Response := statusOfFault f ++ 0#62

/-- The response word of an evaluation. -/
def responseOf : Except Fault Result → Response
  | .ok r => okResponse r
  | .error f => errorResponse f

/-- Drive one response word onto the response port. -/
def pushResponse (r : Response) (s : State) : State := { s with responses := s.responses ++ [r] }

/-- An operation completes: its response word is given and nothing else happens (rules R9, R42). -/
def complete (r : Result) (s : State) : Host.Outcome State Fault Refusal :=
  .next (pushResponse (okResponse r) s)

/-- RAISING AN ERROR CONDITION, the one place it is written (`raise` of rule R6; rule R77): the
response word carries the status and a zero payload, and nothing else happens: no state is saved,
no mode or mask changes, no control goes anywhere.  The machine goes on to the next request
(rule R78). -/
def raise (f : Fault) (s : State) : Host.Outcome State Fault Refusal :=
  .next (pushResponse (errorResponse f) s)

/-- Give the response of an evaluation. -/
def answer (e : Except Fault Result) (s : State) : Host.Outcome State Fault Refusal :=
  match e with
  | .ok r => complete r s
  | .error f => raise f s

/-- Take the next request the host has presented (rules R10, R31). -/
def fetch (s : State) : Option (Request × State) :=
  match s.requests with
  | [] => none
  | w :: rest => some (w, { s with requests := rest })

/-- Put a request word where the unit takes its next one. -/
def present (w : Request) (s : State) : State := { s with requests := w :: s.requests }

/-- No request is presented: the unit does nothing (rules R79, R88; log entry 5). -/
def idle (s : State) : Host.Outcome State Fault Refusal := .next s

end Sys2Proof.Machine
end

