-- ==== Sys2Proof/Machine/Address.lean ====
section
/-! DEFINITION. ADDR, the slave-address calculator (`40_address.md`). -/

namespace Sys2Proof.Machine

/-- `BASE_ADDR` (rules R4, R50). -/
def baseAddress : Byte := 0x0d#8

/-- `address(a0, a1, a2)`: each strap pin ORs in its bit (rule R50).  The base already has bits 0 and 2
set, so only `a1` changes the result (rule R51); the three pins are not made independent. -/
def slaveAddress (a0 a1 a2 : Bool) : Byte :=
  baseAddress ||| (if a0 then 0x01#8 else 0x00#8) ||| (if a1 then 0x02#8 else 0x00#8)
    ||| (if a2 then 0x04#8 else 0x00#8)

/-- The evaluation of ADDR: never fails (rule R50). -/
def evalAddr (a0 a1 a2 : Bool) : Except Fault Result := .ok (.address (slaveAddress a0 a1 a2))

/-- ADDR (rule R50). -/
def execAddr (a0 a1 a2 : Bool) (s : State) : Host.Outcome State Fault Refusal :=
  answer (evalAddr a0 a1 a2) s

end Sys2Proof.Machine
end

