-- ==== Sys2Proof/Machine/BufferExtract.lean ====
section
/-! DEFINITION. BCNT and XTR, buffer shape and output-code extraction (`42_buffer_extract.md`). -/

namespace Sys2Proof.Machine

/-- `byte_count(resolution)` (rule R58). -/
def byteCount : Resolution → Nat
  | .r12 => 3
  | .r14 => 3
  | .r16 => 3
  | .r18 => 4

/-- The data field, assembled from the data bytes with the first byte masked: the four lines of
rule R59.  Every byte goes through the buffer read primitive, so a missing byte is 0 (rule R19). -/
def dataField (r : Resolution) (b : Buffer) : Nat :=
  match r with
  | .r12 => (b.read 1).toNat ||| ((b.read 0).toNat &&& 0x0f) <<< 8
  | .r14 => (b.read 1).toNat ||| ((b.read 0).toNat &&& 0x3f) <<< 8
  | .r16 => (b.read 1).toNat ||| ((b.read 0).toNat &&& 0xff) <<< 8
  | .r18 => (b.read 2).toNat ||| (b.read 1).toNat <<< 8 ||| ((b.read 0).toNat &&& 0x03) <<< 16

/-- The sign rule: when bit `s = r - 1` of the data field is set, the code is the NEGATION of the whole
masked value, its sign bit included; not sign extension (rule R60; conflict C2). -/
def outputCode (r : Resolution) (b : Buffer) : Int :=
  if (dataField r b).testBit (r.bits - 1) then -(dataField r b : Int) else (dataField r b : Int)

/-- The optional length check of `STRICT_LEN` (rule R30): a LONGER buffer is never an error. -/
def tooShort (c : Config) (r : Resolution) (b : Buffer) : Bool :=
  c.strictLen && decide (b.len.toNat < byteCount r)

/-- The evaluation of BCNT (rule R58). -/
def evalBcnt (res : BitVec 5) : Except Fault Result :=
  match Resolution.ofField? res with
  | none => .error .invalidParameter
  | some r => .ok (.byteCount (byteCount r))

/-- The evaluation of XTR (rule R61): the resolution is checked before the length (rule R76). -/
def evalXtr (c : Config) (res : BitVec 5) (buf : Buffer) : Except Fault Result :=
  match Resolution.ofField? res with
  | none => .error .invalidParameter
  | some r =>
    if tooShort c r buf then .error .invalidBufferLength else .ok (.outputCode (outputCode r buf))

/-- BCNT (rule R58). -/
def execBcnt (res : BitVec 5) (s : State) : Host.Outcome State Fault Refusal :=
  answer (evalBcnt res) s

/-- XTR (rule R61). -/
def execXtr (res : BitVec 5) (buf : Buffer) (s : State) : Host.Outcome State Fault Refusal :=
  answer (evalXtr s.config res buf) s

end Sys2Proof.Machine
end

