-- ==== Sys2Proof/Machine/ConfigCodec.lean ====
section
/-! DEFINITION. ENC and DEC, the configuration codec (`41_config_codec.md`). -/

namespace Sys2Proof.Machine

/-- `encode(params)` on typed parameters: one flag byte per field, ORed together (rules R52, R54).
Total: every field is inside its enumeration. -/
def encodeParameters (p : Parameters) : Byte :=
  channelFlag p.channel ||| readyFlag p.readyOrConverting ||| modeFlag p.mode ||| gainFlag p.gain
    ||| resolutionFlag p.resolution

/-- The channel of a configuration byte, by its bits (6, 5), high bit first (rule R55). -/
def channelOfBits : Bool → Bool → Channel
  | false, false => .ch1
  | false, true => .ch2
  | true, false => .ch3
  | true, true => .ch4

/-- The gain of a configuration byte, by its bits (1, 0), high bit first (rule R55). -/
def gainOfBits : Bool → Bool → Gain
  | false, false => .x1
  | false, true => .x2
  | true, false => .x4
  | true, true => .x8

/-- The resolution of a configuration byte, by its bits (3, 2), high bit first (rule R55). -/
def resolutionOfBits : Bool → Bool → Resolution
  | false, false => .r12
  | false, true => .r14
  | true, false => .r16
  | true, true => .r18

/-- `decode(byte)`: bit tests, total on all 256 bytes (rule R55).  The pairs are plain binary written
high bit first (rule R57; conflict C1). -/
def decodeConfig (b : Byte) : Parameters where
  channel := channelOfBits (b.getLsbD 6) (b.getLsbD 5)
  readyOrConverting := b.getLsbD 7
  mode := if b.getLsbD 4 then .continuous else .oneShot
  gain := gainOfBits (b.getLsbD 1) (b.getLsbD 0)
  resolution := resolutionOfBits (b.getLsbD 3) (b.getLsbD 2)

/-- The evaluation of ENC (rule R54). -/
def evalEnc (params : ParamsWord) : Except Fault Result :=
  match params.fill with
  | .ok p => .ok (.configByte (encodeParameters p))
  | .error f => .error f

/-- The evaluation of DEC: never fails (rule R55). -/
def evalDec (cfg : Byte) : Except Fault Result := .ok (.params (decodeConfig cfg))

/-- ENC (rule R54). -/
def execEnc (params : ParamsWord) (s : State) : Host.Outcome State Fault Refusal :=
  answer (evalEnc params) s

/-- DEC (rule R55). -/
def execDec (cfg : Byte) (s : State) : Host.Outcome State Fault Refusal :=
  answer (evalDec cfg) s

end Sys2Proof.Machine
end

