-- ==== Sys2Proof/Machine/Voltage.lean ====
section
/-! DEFINITION. VOLT, the scale-factor table and multiplier (`43_voltage.md`). -/

namespace Sys2Proof.Machine

/-- `lsb_microvolts`: microvolts per code step, exact rationals (rule R63). -/
def lsbMicrovolts : Resolution → Rat
  | .r12 => 1000
  | .r14 => 250
  | .r16 => 125 / 2
  | .r18 => 125 / 8

/-- `gain_divisor` (rule R64): never zero. -/
def gainDivisor : Gain → Nat
  | .x1 => 1
  | .x2 => 2
  | .x4 => 4
  | .x8 => 8

/-- The combined scale table `SCALE_Q9[resolution][gain]`, all 16 entries (rule R65). -/
def scaleQ9 : Resolution → Gain → Int
  | .r12, .x1 => 512000
  | .r12, .x2 => 256000
  | .r12, .x4 => 128000
  | .r12, .x8 => 64000
  | .r14, .x1 => 128000
  | .r14, .x2 => 64000
  | .r14, .x4 => 32000
  | .r14, .x8 => 16000
  | .r16, .x1 => 32000
  | .r16, .x2 => 16000
  | .r16, .x4 => 8000
  | .r16, .x8 => 4000
  | .r18, .x1 => 8000
  | .r18, .x2 => 4000
  | .r18, .x4 => 2000
  | .r18, .x8 => 1000

/-- The voltage in Q9: an exact integer product, no rounding (rule R66). -/
def voltageQ9 (r : Resolution) (g : Gain) (code : Int) : Int := code * scaleQ9 r g

/-- The voltage in microvolts as the exact rational of DOC00's formula (rule R66). -/
def microVolt (r : Resolution) (g : Gain) (code : Int) : Rat :=
  code * lsbMicrovolts r / gainDivisor g

/-- A rational that an IEEE 754 binary64 value represents, restricted to the scales rule R67 needs: a
significand below `2^53` and an exponent from -9 to 0.  Every such number is a binary64 value (general
knowledge, entry G3 of `93_implementation_defined.md`; log entry 9). -/
def IsBinary64 (q : Rat) : Prop :=
  ∃ (m : Int) (e : Nat), m.natAbs < 2 ^ 53 ∧ e ≤ 9 ∧ q = m / 2 ^ e

/-- DOC00's floating-point formula, product first, under a rounding `rnd` applied after each operation
(rules R66, R67). -/
def microVoltFloat (rnd : Rat → Rat) (r : Resolution) (g : Gain) (code : Int) : Rat :=
  rnd (rnd (code * lsbMicrovolts r) / gainDivisor g)

/-- The same formula with the table division first (rule R67: whatever the order). -/
def microVoltFloatScaleFirst (rnd : Rat → Rat) (r : Resolution) (g : Gain) (code : Int) : Rat :=
  rnd (code * rnd (lsbMicrovolts r / gainDivisor g))

/-- The same formula with the code divided first (rule R67: whatever the order). -/
def microVoltFloatDivFirst (rnd : Rat → Rat) (r : Resolution) (g : Gain) (code : Int) : Rat :=
  rnd (rnd (code / gainDivisor g) * lsbMicrovolts r)

/-- The evaluation of VOLT (rule R66): the operand is `signed_19(CODE)`, and every 19-bit code is
accepted. -/
def evalVolt (res : BitVec 5) (gain : BitVec 4) (code : BitVec 19) : Except Fault Result :=
  match Resolution.ofField? res, Gain.ofField? gain with
  | some r, some g => .ok (.microvolts (voltageQ9 r g code.toInt))
  | _, _ => .error .invalidParameter

/-- VOLT (rule R66). -/
def execVolt (res : BitVec 5) (gain : BitVec 4) (code : BitVec 19) (s : State) :
    Host.Outcome State Fault Refusal :=
  answer (evalVolt res gain code) s

/-- `micro_volt` of a reading: the Q9 integer over 512 (rules R7, R65). -/
def readingMicroVolt (r : Reading) : Rat := r.uvQ9 / 512

end Sys2Proof.Machine
end

