-- ==== Sys2Proof/Machine/Pipeline.lean ====
section
/-! DEFINITION. PROC, the read pipeline (`44_pipeline.md`): the composition of decoding, extraction and
scaling (rule R70). -/

namespace Sys2Proof.Machine

/-- `process(raw_buffer)` without the length policy (rules R69, R70): the parameters are those of the
buffer's OWN last byte, and its ready flag gates nothing (rule R86). -/
def readingOf (b : Buffer) : Reading where
  params := decodeConfig b.lastByte
  uvQ9 := voltageQ9 (decodeConfig b.lastByte).resolution (decodeConfig b.lastByte).gain
    (outputCode (decodeConfig b.lastByte).resolution b)

/-- The evaluation of PROC (rule R69): under `STRICT_LEN` an empty buffer and a buffer shorter than the
frame of the reported resolution are errors (rule R30); otherwise it is total. -/
def evalProc (c : Config) (buf : Buffer) : Except Fault Result :=
  if c.strictLen && decide (buf.len.toNat = 0) then .error .invalidBufferLength
  else if tooShort c (decodeConfig buf.lastByte).resolution buf then .error .invalidBufferLength
  else .ok (.reading (readingOf buf))

/-- PROC (rule R69). -/
def execProc (buf : Buffer) (s : State) : Host.Outcome State Fault Refusal :=
  answer (evalProc s.config buf) s

end Sys2Proof.Machine
end

