-- ==== Sys2Proof/Machine/Reserved.lean ====
section
/-! DEFINITION. The reserved operation code `OP = 111` (`30_encoding.md` rule R45, `60_exceptions.md`
rule R75). -/

namespace Sys2Proof.Machine

/-- The evaluation of a word with `OP = 111`: `IllegalRequest`, its other bits not looked at
(rule R75). -/
def evalReservedOp7 (_ignored : BitVec 45) : Except Fault Result := .error .illegalRequest

/-- The reserved operation code: the response is `IllegalRequest` with a zero payload (rule R75). -/
def execReservedOp7 (ignored : BitVec 45) (s : State) : Host.Outcome State Fault Refusal :=
  answer (evalReservedOp7 ignored) s

end Sys2Proof.Machine
end

