-- ==== Sys2Proof/Machine/Dispatch.lean ====
section
/-! DEFINITION. One arm per operation (`30_encoding.md` rule R32). -/

namespace Sys2Proof.Machine

def exec (i : Instr) (s : State) : Host.Outcome State Fault Refusal :=
  match i with
  | .addr a0 a1 a2 => Sys2Proof.Machine.execAddr a0 a1 a2 s
  | .enc params => Sys2Proof.Machine.execEnc params s
  | .dec cfg => Sys2Proof.Machine.execDec cfg s
  | .bcnt res => Sys2Proof.Machine.execBcnt res s
  | .xtr res buf => Sys2Proof.Machine.execXtr res buf s
  | .volt res gain code => Sys2Proof.Machine.execVolt res gain code s
  | .proc buf => Sys2Proof.Machine.execProc buf s
  | .reservedOp7 ignored => Sys2Proof.Machine.execReservedOp7 ignored s

end Sys2Proof.Machine
end

