-- ==== Sys2Proof/Machine/Serve.lean ====
section
/-! DEFINITION. Serving one request word: decode it and run the operation, or answer
`IllegalRequest` (`30_encoding.md` rule R45, `60_exceptions.md` rule R76: that check comes first). -/

namespace Sys2Proof.Machine

/-- Serve the request word `w`. -/
def serve (w : Request) (s : State) : Host.Outcome State Fault Refusal :=
  match decode w with
  | .ok i => exec i s
  | .error _ => raise .illegalRequest s

end Sys2Proof.Machine
end

