-- ==== Sys2Proof/Machine/Step.lean ====
section
/-! DEFINITION. One step of the machine: the unit takes the next request the host has presented and
answers it (`10_state.md` rules R9, R10). -/

namespace Sys2Proof.Machine

/-- One step: one request, one response (rule R31). -/
def step (s : State) : Host.Outcome State Fault Refusal :=
  match fetch s with
  | none => idle s
  | some (w, s') => serve w s'

/-- `s` with the table row's word presented as the next request (log entry 4). -/
def State.withFetchWord (s : State) (nbits w : Nat) : State := present (tableWord nbits w) s

end Sys2Proof.Machine
end

