-- ==== Sys2Proof/Machine/Assembler.lean ====
section
/-! DEFINITION. The request syntax of `30_encoding.md` rule R47 and the pseudo-operations of rule R48:
a written request, the instruction it stands for, and its text. -/

namespace Sys2Proof.Machine

/-- A request as rule R47 writes it, with the two pseudo-operations of rule R48.  `res`, `gain` and
`ch` may be raw numbers, to show an illegal value. -/
inductive AsmLine
  | addr (a0 a1 a2 : Bool)
  | addr0
  /-- A field that is written is present, a field left out is absent. -/
  | enc (ch : Option Nat) (rdy : Option Bool) (mode : Option Mode) (gain res : Option Nat)
  | encd
  | dec (cfg : Byte)
  | bcnt (res : Nat)
  /-- `LEN` is the number of bytes listed. -/
  | xtr (res : Nat) (bytes : List Byte)
  | volt (res gain : Nat) (code : Int)
  | proc (bytes : List Byte)
  deriving DecidableEq, Repr

/-- A raw number in a field of `w` bits, when it fits. -/
def fieldOf? (w n : Nat) : Option (BitVec w) := if n < 2 ^ w then some (BitVec.ofNat w n) else none

/-- An optional field: absent, or a raw number that must fit. -/
def optionalField? (w : Nat) : Option Nat → Option (BitVec w)
  | none => some 0
  | some n => fieldOf? w n

/-- The output-code operand: a signed number of the 19-bit range (rule R38). -/
def codeOf? (code : Int) : Option (BitVec 19) :=
  if -262144 ≤ code ∧ code ≤ 262143 then some (BitVec.ofInt 19 code) else none

/-- The instruction a written request stands for; `none` when a number does not fit its field or more
than four bytes are listed (rules R47, R48).  Value bits of absent fields are written as 0. -/
def assemble : AsmLine → Option Instr
  | .addr a0 a1 a2 => some (.addr a0 a1 a2)
  | .addr0 => some (.addr false false false)
  | .enc ch rdy mode gain res =>
    match optionalField? 3 ch, optionalField? 4 gain, optionalField? 5 res with
    | some c, some g, some r =>
      some (.enc { pRes := res.isSome, pGain := gain.isSome, pMode := mode.isSome,
                   pRdy := rdy.isSome, pCh := ch.isSome, res := r, gain := g,
                   mode := (mode.map Mode.field).getD false, rdy := rdy.getD false, ch := c })
    | _, _, _ => none
  | .encd => some (.enc (ParamsWord.ofBits 0#19))
  | .dec cfg => some (.dec cfg)
  | .bcnt res => (fieldOf? 5 res).map .bcnt
  | .xtr res bytes =>
    match fieldOf? 5 res, Buffer.ofBytes? bytes with
    | some r, some b => some (.xtr r b)
    | _, _ => none
  | .volt res gain code =>
    match fieldOf? 5 res, fieldOf? 4 gain, codeOf? code with
    | some r, some g, some c => some (.volt r g c)
    | _, _, _ => none
  | .proc bytes => (Buffer.ofBytes? bytes).map .proc

/-- One hexadecimal digit. -/
def hexDigit (n : Nat) : String := String.singleton ("0123456789abcdef".toList.getD n '?')

/-- A byte as rule R47 writes it. -/
def byteText (b : Byte) : String := "0x" ++ hexDigit (b.toNat / 16) ++ hexDigit (b.toNat % 16)

/-- A Boolean operand: 0 or 1. -/
def bitText (b : Bool) : String := if b then "1" else "0"

/-- A gain: `x4`, or the raw number of an illegal value. -/
def gainText (g : Nat) : String := if g ∈ [1, 2, 4, 8] then "x" ++ toString g else toString g

/-- The fields of an ENC operand that are written, in the order rule R47 lists them. -/
def encFieldTexts (ch : Option Nat) (rdy : Option Bool) (mode : Option Mode) (gain res : Option Nat) :
    List String :=
  (ch.map fun n => "ch=" ++ toString n).toList
    ++ (rdy.map fun b => "rdy=" ++ bitText b).toList
    ++ (mode.map fun m => match m with | .continuous => "mode=cont" | .oneShot => "mode=oneshot").toList
    ++ (gain.map fun g => "gain=" ++ gainText g).toList
    ++ (res.map fun n => "res=" ++ toString n).toList

/-- A buffer operand: its bytes in brackets. -/
def bytesText (bytes : List Byte) : String := "[" ++ ", ".intercalate (bytes.map byteText) ++ "]"

/-- The text of a request (rules R47, R48). -/
def AsmLine.text : AsmLine → String
  | .addr a0 a1 a2 => "ADDR " ++ bitText a0 ++ ", " ++ bitText a1 ++ ", " ++ bitText a2
  | .addr0 => "ADDR0"
  | .enc ch rdy mode gain res => "ENC " ++ ", ".intercalate (encFieldTexts ch rdy mode gain res)
  | .encd => "ENCD"
  | .dec cfg => "DEC " ++ byteText cfg
  | .bcnt res => "BCNT " ++ toString res
  | .xtr res bytes => "XTR " ++ toString res ++ ", " ++ bytesText bytes
  | .volt res gain code =>
    "VOLT " ++ toString res ++ ", " ++ gainText gain ++ ", " ++ toString code
  | .proc bytes => "PROC " ++ bytesText bytes

end Sys2Proof.Machine
end

