-- ==== Sys2Proof/Machine/Eval.lean ====
section
/-! DEFINITION. The unit as the pure function it is: `response = eval(configuration, request)`
(`10_state.md` rule R9).  The machine's step is a refinement of it; the host's sequence is written
over it. -/

namespace Sys2Proof.Machine

/-- The evaluation of one operation (rule R9). -/
def evalInstr (c : Config) (i : Instr) : Except Fault Result :=
  match i with
  | .addr a0 a1 a2 => evalAddr a0 a1 a2
  | .enc params => evalEnc params
  | .dec cfg => evalDec cfg
  | .bcnt res => evalBcnt res
  | .xtr res buf => evalXtr c res buf
  | .volt res gain code => evalVolt res gain code
  | .proc buf => evalProc c buf
  | .reservedOp7 ignored => evalReservedOp7 ignored

/-- `response = eval(configuration, request)`: total on all request words (rules R9, R45). -/
def eval (c : Config) (w : Request) : Response :=
  match decode w with
  | .ok i => responseOf (evalInstr c i)
  | .error _ => errorResponse .illegalRequest

end Sys2Proof.Machine
end

