-- ==== Sys2Proof/Machine/HostSequence.lean ====
section
/-! DEFINITION. The host around the unit: the boot and use sequence (`70_reset_and_hazards.md` rule R84,
`44_pipeline.md` rule R71) over the unit's evaluation and the two transactions of the external I/O
collaborator (`20_memory.md` rule R26), with the host's own checks of rules R85 and R86.
The collaborator and the converter behind it are arguments: what they answer is not in the spec, so a
claim about the sequence holds for every collaborator and for every content of `IoError`
(`93_implementation_defined.md` entries U7, U11). -/

namespace Sys2Proof.Machine

/-- Why the host's sequence stops before its end.  `ε` is the collaborator's `IoError`, whose content
is not in the source (N19). -/
inductive HostStop (ε : Type)
  /-- A bus transaction failed; the error goes to the host's caller unchanged (rule R81). -/
  | ioError (e : ε)
  /-- The unit answered a request with an error status. -/
  | codecStatus (status : BitVec 2)
  /-- The collaborator returned more bytes than a request can carry (rule R18). -/
  | bufferCapacity
  deriving DecidableEq, Repr

/-- What the host holds once the converter is configured: the slave address and the configuration
byte it wrote (rule R84 steps 1 and 3). -/
structure Configured where
  address : Byte
  cfg : Byte
  deriving DecidableEq, Repr

/-- The host presents one request to the unit and reads the response (rule R9). -/
def ask (c : Config) (i : Instr) : Response := eval c (encode i)

/-- `RSP[7:0]`: the address of ADDR, the configuration byte of ENC (rule R44). -/
def byteResult (r : Response) : Byte := r.extractLsb' 0 8

/-- `RSP[2:0]`: the byte count of BCNT (rule R44). -/
def countResult (r : Response) : Nat := (r.extractLsb' 0 3).toNat

/-- `RSP[18:0]`: the `PARAMS` word of DEC (rule R44). -/
def paramsResult (r : Response) : ParamsWord := ParamsWord.ofBits (r.extractLsb' 0 19)

/-- `RSP[56:38]`: the `PARAMS` word of PROC (rule R44). -/
def readingParamsResult (r : Response) : ParamsWord := ParamsWord.ofBits (r.extractLsb' 38 19)

/-- `RSP[37:0]`: the microvolt result of VOLT and PROC in Q9 (rule R44). -/
def microvoltsResult (r : Response) : Int := (r.extractLsb' 0 38).toInt

/-- Steps 1 to 4 of rule R84: compute the address, encode the parameters, write the one configuration
byte. -/
def configureConverter {ε : Type} (c : Config) (write : Byte → List Byte → Except ε Unit)
    (a0 a1 a2 : Bool) (params : ParamsWord) : Except (HostStop ε) Configured :=
  let address := byteResult (ask c (.addr a0 a1 a2))
  let encoded := ask c (.enc params)
  if statusField encoded = statusOk then
    match write address [byteResult encoded] with
    | .error e => .error (.ioError e)
    | .ok () => .ok { address := address, cfg := byteResult encoded }
  else .error (.codecStatus (statusField encoded))

/-- Steps 5 to 7 of rule R84 (rule R71): size the read, read, process the bytes returned.  The reading
is the unit's PROC response. -/
def takeReading {ε : Type} (c : Config) (read : Byte → Nat → Except ε (List Byte))
    (address : Byte) (res : BitVec 5) : Except (HostStop ε) Response :=
  let counted := ask c (.bcnt res)
  if statusField counted = statusOk then
    match read address (countResult counted) with
    | .error e => .error (.ioError e)
    | .ok bytes =>
      match Buffer.ofBytes? bytes with
      | none => .error .bufferCapacity
      | some b =>
        let processed := ask c (.proc b)
        if statusField processed = statusOk then .ok processed
        else .error (.codecStatus (statusField processed))
  else .error (.codecStatus (statusField counted))

/-- `params.resolution` in step 5 of rule R84: the resolution the host asked ENC for, the default when the
field is absent (rule R53). -/
def requestedRes (params : ParamsWord) : BitVec 5 :=
  if params.pRes then params.res else Parameters.default.resolution.field

/-- What the host does on the bus (rule R84 steps 2, 4 and 6). -/
inductive BusAction
  /-- The slave address is selected on the bus handle. -/
  | select (address : Byte)
  /-- The transaction `write(address, bytes)` (rule R26). -/
  | write (address : Byte) (bytes : List Byte)
  /-- The transaction `read(address, count)` (rule R26). -/
  | read (address : Byte) (count : Nat)
  deriving DecidableEq, Repr

/-- The I/O collaborator with the converter behind it: what its two transactions answer may depend on
everything done on the bus before, oldest action first (rule R26; log entry 13). -/
structure Bus (ε : Type) where
  write : List BusAction → Byte → List Byte → Except ε Unit
  read : List BusAction → Byte → Nat → Except ε (List Byte)

/-- A session of the host, when it has ended: the actions on the bus, oldest first, the readings it has,
and why it stopped early, if it did. -/
structure Session (ε : Type) where
  actions : List BusAction
  readings : List Response
  stop : Option (HostStop ε)
  deriving DecidableEq, Repr

/-- The actions on the bus after steps 1 to 4 of rule R84: the address is selected, and the byte written
when the unit has encoded it. -/
def actionsAfterConfigure (c : Config) (a0 a1 a2 : Bool) (params : ParamsWord)
    (past : List BusAction) : List BusAction :=
  let address := byteResult (ask c (.addr a0 a1 a2))
  let encoded := ask c (.enc params)
  if statusField encoded = statusOk then
    past ++ [.select address, .write address [byteResult encoded]]
  else past ++ [.select address]

/-- The actions on the bus after steps 5 to 7 of rule R84: one read when the unit has given its size. -/
def actionsAfterReading (c : Config) (address : Byte) (res : BitVec 5) (past : List BusAction) :
    List BusAction :=
  let counted := ask c (.bcnt res)
  if statusField counted = statusOk then past ++ [.read address (countResult counted)] else past

/-- Steps 5 to 7 of rule R84, repeated: the host takes `n` readings and stops at the first error
(rule R81). -/
def takeReadings {ε : Type} (c : Config) (bus : Bus ε) (address : Byte) (res : BitVec 5) :
    Nat → List BusAction → Session ε
  | 0, past => { actions := past, readings := [], stop := none }
  | n + 1, past =>
    match takeReading c (bus.read past) address res with
    | .error stop =>
      { actions := actionsAfterReading c address res past, readings := [], stop := some stop }
    | .ok reading =>
      let rest := takeReadings c bus address res n (actionsAfterReading c address res past)
      { rest with readings := reading :: rest.readings }

/-- The boot and use sequence of rule R84, steps 1 to 7: configure the converter, then take `n` readings
at the address and the resolution it was configured with.  An error of steps 1 to 4 ends the sequence
before step 5. -/
def runSession {ε : Type} (c : Config) (bus : Bus ε) (a0 a1 a2 : Bool) (params : ParamsWord)
    (n : Nat) (past : List BusAction) : Session ε :=
  let done := actionsAfterConfigure c a0 a1 a2 params past
  match configureConverter c (bus.write (past ++ [.select (byteResult (ask c (.addr a0 a1 a2)))]))
      a0 a1 a2 params with
  | .error stop => { actions := done, readings := [], stop := some stop }
  | .ok configured => takeReadings c bus configured.address (requestedRes params) n done

/-- The host's check of rule R85: the resolution the converter reported is the one asked for. -/
def reportedAsAsked (res : BitVec 5) (reading : Response) : Bool :=
  (readingParamsResult reading).res == res

/-- The host's check of rule R86: the ready flag of the reading says a fresh sample. -/
def isFresh (reading : Response) : Bool := !(readingParamsResult reading).rdy

end Sys2Proof.Machine
end

