-- ==== Sys2Proof/Safety.lean ====
section
/-! DEFINITION. What counts as a safe run: every step ends in a next state, and every response word the
unit has driven is one the spec allows (`30_encoding.md` rules R42 to R44, `60_exceptions.md` rules
R74 and R77). -/

namespace Sys2Proof.Machine

/-- The step ends in a next state: no fault, no refusal, no hang (rule R9). -/
def Safe (s : State) : Prop := ∃ t, step s = .next t

/-- A response word the spec allows under a configuration: an error status carries a zero payload
(rules R42, R77); an `OK` payload uses no bit above 56, the highest bit rule R44 names; and
`InvalidBufferLength` appears only when `STRICT_LEN` is true (rule R74). -/
abbrev ResponseAllowed (c : Config) (r : Response) : Prop :=
  (statusField r ≠ 0b00#2 → payloadField r = 0#62) ∧
  (payloadField r).toNat < 2 ^ 57 ∧
  (c.strictLen = false → statusField r ≠ 0b10#2)

/-- The invariant of the machine: every response given so far is allowed. -/
abbrev State.Inv (s : State) : Prop := ∀ r ∈ s.responses, ResponseAllowed s.config r

end Sys2Proof.Machine
end

