-- ==== Sys2Proof/Certificates/Slice0/Obligations.lean ====
section
/-! DEFINITION. The statements for the provers.  The helpers of the first part write the spec's formulas
out in plain numbers, independently of the model's tables and bit operations; each statement then says
that the machine does what the formula says. -/

namespace Sys2Proof.Statements

open Sys2Proof.Machine

/-- `exec i` at `s` answers exactly the response word `r`: a next state that differs from `s` only in
the one response appended. -/
def Answers (i : Instr) (s : State) (r : Response) : Prop :=
  exec i s = .next { s with responses := s.responses ++ [r] }

/-- `STATUS = InvalidParameter`, zero payload (rules R42, R43). -/
abbrev invalidParameterWord : Response := 0x4000_0000_0000_0000#64

/-- `STATUS = InvalidBufferLength`, zero payload (rules R42, R43). -/
abbrev invalidBufferLengthWord : Response := 0x8000_0000_0000_0000#64

/-- `STATUS = IllegalRequest`, zero payload (rules R42, R43). -/
abbrev illegalRequestWord : Response := 0xc000_0000_0000_0000#64

/-- The buffer's bytes `b[0] .. b[LEN-1]` (rule R19). -/
def bufferBytes (b : Buffer) : List Byte := [b.b0, b.b1, b.b2, b.b3].take b.len.toNat

/-- `B(i)` as a number: 0 for a missing byte (rule R19). -/
def byteAt (b : Buffer) (i : Nat) : Nat := ((bufferBytes b).getD i 0#8).toNat

/-- The buffer's last byte; 0 for the empty buffer (rule R69). -/
def lastOf (b : Buffer) : Byte := (bufferBytes b).getLastD 0#8

/-- The frame length of a resolution (rules R22, R58). -/
def frameLength (r : Nat) : Nat := if r = 18 then 4 else 3

/-- How many low bits of `b[0]` the extractor keeps (rule R22). -/
def keptBits (r : Nat) : Nat := if r = 18 then 2 else r - 8

/-- The data field of rule R59, as a number. -/
def dataOf (r : Nat) (b : Buffer) : Nat :=
  if r = 18 then byteAt b 0 % 4 * 65536 + byteAt b 1 * 256 + byteAt b 2
  else byteAt b 0 % 2 ^ (r - 8) * 256 + byteAt b 1

/-- The output code of rule R60: the data field, negated when its top bit is set. -/
def codeOf (r : Nat) (b : Buffer) : Int :=
  if 2 ^ (r - 1) ≤ dataOf r b then -(dataOf r b : Int) else dataOf r b

/-- Bit `i` of a byte, 0 or 1 (rule R5). -/
def bitOf (b : Byte) (i : Nat) : Nat := b.toNat / 2 ^ i % 2

/-- The resolution a configuration byte reports, in bits: `12 + 2*bit2 + 4*bit3` (rule R13). -/
def resolutionIn (b : Byte) : Nat := 12 + 2 * bitOf b 2 + 4 * bitOf b 3

/-- The gain a configuration byte reports, as a multiplier: `2^(bit0 + 2*bit1)` (rule R13). -/
def gainIn (b : Byte) : Nat := 2 ^ (bitOf b 0 + 2 * bitOf b 1)

/-- The channel a configuration byte reports: `1 + bit5 + 2*bit6` (rule R13). -/
def channelIn (b : Byte) : Nat := 1 + bitOf b 5 + 2 * bitOf b 6

/-- The `PARAMS` word of a configuration byte: present bits 18:14, `RES` 13:9, `GAIN` 8:5, `MODE` 4,
`RDY` 3, `CH` 2:0 (rules R40, R55). -/
def paramsIn (b : Byte) : Nat :=
  31 * 2 ^ 14 + resolutionIn b * 2 ^ 9 + gainIn b * 2 ^ 5 + bitOf b 4 * 2 ^ 4 + bitOf b 7 * 2 ^ 3
    + channelIn b

/-- `w`-bit two's complement of an integer, as a number (rule R6). -/
def twosComplement (w : Nat) (v : Int) : Nat := (v % 2 ^ w).toNat

/-- `SCALE_Q9` as `1000 << n`, `n = 9 - 2k - g`, with `2k = r - 12` and the gain `2^g` (rule R65). -/
def scaleOf (r g : Nat) : Int := 1000 * 2 ^ (9 - (r - 12) - g)

/-- The microvolt result of a buffer in Q9, from its own last byte (rule R69). -/
def readingUv (b : Buffer) : Int :=
  codeOf (resolutionIn (lastOf b)) b
    * scaleOf (resolutionIn (lastOf b)) (bitOf (lastOf b) 0 + 2 * bitOf (lastOf b) 1)

/-- Under `STRICT_LEN` the buffer is shorter than PROC needs (rule R30). -/
abbrev procShort (b : Buffer) : Prop :=
  b.len.toNat = 0 ∨ b.len.toNat < frameLength (resolutionIn (lastOf b))

/-- The rows of the formats: operation code, match, mask (rules R33 to R39). -/
def formatRows : List (Nat × Request × Request) :=
  [(0, 0x0000_0000_0000#48, 0xffff_ffff_fff8#48),
   (1, 0x2000_0000_0000#48, 0xffff_fff8_0000#48),
   (2, 0x4000_0000_0000#48, 0xffff_ffff_ff00#48),
   (3, 0x6000_0000_0000#48, 0xffff_ffff_ffe0#48),
   (4, 0x8000_0000_0000#48, 0xff00_0000_0000#48),
   (5, 0xa000_0000_0000#48, 0xffff_f000_0000#48),
   (6, 0xc000_0000_0000#48, 0xfff8_0000_0000#48)]

/-- `OP = REQ[47:45]` as a number (rule R31). -/
def opOf (w : Request) : Nat := w.toNat / 2 ^ 45

/-- `LEN = REQ[34:32]` as a number (rules R37, R39). -/
def lenOf (w : Request) : Nat := w.toNat / 2 ^ 32 % 8

/-- `RES = REQ[39:35]` of format X as a number (rule R37). -/
def xtrResOf (w : Request) : Nat := w.toNat / 2 ^ 35 % 32

/-- Rule R45: (a) `OP = 111`; (b) a must-be-zero bit is 1; (c) a format with a `LEN` field has
`LEN > 4`. -/
abbrev IllegalWord (w : Request) : Prop :=
  opOf w = 7 ∨ (∃ row ∈ formatRows, row.1 = opOf w ∧ w &&& row.2.2 ≠ row.2.1) ∨
    ((opOf w = 4 ∨ opOf w = 6) ∧ 4 < lenOf w)

/-- A present field of an ENC operand holds a value outside its enumeration (rule R73). -/
abbrev encInvalid (p : ParamsWord) : Prop :=
  (p.pCh = true ∧ p.ch.toNat ∉ [1, 2, 3, 4]) ∨ (p.pGain = true ∧ p.gain.toNat ∉ [1, 2, 4, 8]) ∨
    (p.pRes = true ∧ p.res.toNat ∉ [12, 14, 16, 18])

/-- The causes of `InvalidParameter`, operation by operation (rule R73). -/
def InvalidParameterCause : Instr → Prop
  | .addr _ _ _ => False
  | .enc p => encInvalid p
  | .dec _ => False
  | .bcnt res => res.toNat ∉ [12, 14, 16, 18]
  | .xtr res _ => res.toNat ∉ [12, 14, 16, 18]
  | .volt res gain _ => res.toNat ∉ [12, 14, 16, 18] ∨ gain.toNat ∉ [1, 2, 4, 8]
  | .proc _ => False
  | .reservedOp7 _ => False

/-- The causes of `InvalidBufferLength` under `STRICT_LEN`, operation by operation (rule R74). -/
def InvalidBufferLengthCause : Instr → Prop
  | .addr _ _ _ => False
  | .enc _ => False
  | .dec _ => False
  | .bcnt _ => False
  | .xtr res buf => res.toNat ∈ [12, 14, 16, 18] ∧ buf.len.toNat < frameLength res.toNat
  | .volt _ _ _ => False
  | .proc buf => procShort buf
  | .reservedOp7 _ => False

/-- The instruction is the reserved operation code (rule R75). -/
def IsReserved : Instr → Prop
  | .addr _ _ _ => False
  | .enc _ => False
  | .dec _ => False
  | .bcnt _ => False
  | .xtr _ _ => False
  | .volt _ _ _ => False
  | .proc _ => False
  | .reservedOp7 _ => True

/-- A written number fits a field of `w` bits; a number left out does. -/
abbrev FitsField (w : Nat) (n : Option Nat) : Prop := n.getD 0 < 2 ^ w

/-- A buffer operand lists exactly these bytes, `b[0]` first, with zeros in the unused lanes. -/
abbrev Lists (b : Buffer) (bytes : List Byte) : Prop :=
  b.len.toNat = bytes.length ∧
    [b.b0, b.b1, b.b2, b.b3] = bytes ++ List.replicate (4 - bytes.length) 0#8

/-- The bounds of `uv_q9` at gain x1 for the codes XTR produces (the table of rule R68). -/
def uvBounds : Resolution → Int × Int
  | .r12 => (-2096640000, 1048064000)
  | .r14 => (-2097024000, 1048448000)
  | .r16 => (-2097120000, 1048544000)
  | .r18 => (-2097144000, 1048568000)

end Sys2Proof.Statements

open Sys2Proof Sys2Proof.Machine Sys2Proof.Statements

/-- The state after reset: the length policy of this hardware (rule R30), and, by the model's choice
(log entry 4), no request presented and no response given. -/
def Obligations.ResetLeavesZeroFillAndEmptyPorts : Prop :=
  State.reset.config.strictLen = false ∧ State.reset.requests = [] ∧ State.reset.responses = []

/-- Rule R50: each strap pin ORs its bit into the base address; by rule R51 only `a1` changes the answer. -/
def Obligations.AddrOrsStrapPinsIntoBase : Prop :=
  ∀ (a0 a1 a2 : Bool) (s : State),
    Answers (.addr a0 a1 a2) s (BitVec.ofNat 64
      (0x0d ||| (if a0 then 0x01 else 0x00) ||| (if a1 then 0x02 else 0x00)
        ||| (if a2 then 0x04 else 0x00))) ∧
    Answers (.addr a0 a1 a2) s (if a1 then 0x0f#64 else 0x0d#64)

/-- Rules R52, R53, R54: ENC ORs one flag per field, an absent field taking its default; a present field
outside its enumeration ends with `InvalidParameter`. -/
def Obligations.EncAnswersFlagsOrInvalidParameter : Prop :=
  ∀ (p : ParamsWord) (s : State),
    (∀ ch gain res chFlag gainFlag resFlag : Nat,
      ch = (if p.pCh then p.ch.toNat else 1) →
      gain = (if p.pGain then p.gain.toNat else 1) →
      res = (if p.pRes then p.res.toNat else 12) →
      (ch, chFlag) ∈ [(1, 0x00), (2, 0x20), (3, 0x40), (4, 0x60)] →
      (gain, gainFlag) ∈ [(1, 0x00), (2, 0x01), (4, 0x02), (8, 0x03)] →
      (res, resFlag) ∈ [(12, 0x00), (14, 0x04), (16, 0x08), (18, 0x0c)] →
      Answers (.enc p) s (BitVec.ofNat 64
        (chFlag ||| (if (if p.pRdy then p.rdy else true) then 0x80 else 0x00)
          ||| (if (if p.pMode then p.mode else true) then 0x10 else 0x00) ||| gainFlag ||| resFlag))) ∧
    (encInvalid p → Answers (.enc p) s invalidParameterWord)

/-- Rules R48, R53: ENC with no field present answers `0x90`, whatever the value bits hold. -/
def Obligations.EncWithNoFieldPresentAnswersDefault : Prop :=
  ∀ (p : ParamsWord) (s : State),
    p.pCh = false → p.pRdy = false → p.pMode = false → p.pGain = false → p.pRes = false →
    Answers (.enc p) s 0x90#64

/-- Rules R40, U10: the answer of ENC does not depend on the value bits of absent fields. -/
def Obligations.EncIgnoresAbsentFieldBits : Prop :=
  ∀ (p q : ParamsWord) (s : State),
    p.pCh = q.pCh → p.pRdy = q.pRdy → p.pMode = q.pMode → p.pGain = q.pGain → p.pRes = q.pRes →
    (p.pCh = true → p.ch = q.ch) → (p.pRdy = true → p.rdy = q.rdy) →
    (p.pMode = true → p.mode = q.mode) → (p.pGain = true → p.gain = q.gain) →
    (p.pRes = true → p.res = q.res) →
    ∃ r, Answers (.enc p) s r ∧ Answers (.enc q) s r

/-- Rule R55: DEC answers the `PARAMS` word of the byte's five fields, every present bit 1. -/
def Obligations.DecAnswersFields : Prop :=
  ∀ (b : Byte) (s : State), Answers (.dec b) s (BitVec.ofNat 64 (paramsIn b))

/-- Rule R56: ENC and DEC are inverse to each other, on all 256 bytes and on all full legal `PARAMS`
words. -/
def Obligations.EncAndDecAreInverse : Prop :=
  (∀ (b : Byte) (s : State), ∃ r, Answers (.dec b) s r ∧
    Answers (.enc (ParamsWord.ofBits (r.extractLsb' 0 19))) s (b.setWidth 64)) ∧
  (∀ (p : ParamsWord) (s : State),
    p.pCh = true → p.pRdy = true → p.pMode = true → p.pGain = true → p.pRes = true →
    ¬ encInvalid p →
    ∃ r, Answers (.enc p) s r ∧ statusField r = 0b00#2 ∧
      Answers (.dec (r.extractLsb' 0 8)) s (p.toBits.setWidth 64))

/-- Rules R8, R13: the index helpers, their inverses, and that they are the 2-bit field values of the
configuration byte, as DEC reads them and as ENC writes them. -/
def Obligations.IndexHelpersAreConfigurationFields : Prop :=
  (∀ r : Resolution, r.bits = 12 + 2 * r.index) ∧
  (∀ g : Gain, gainDivisor g = 2 ^ g.index) ∧
  (∀ c : Channel, c.field.toNat = 1 + c.index) ∧
  (∀ (b : Byte) (s : State), ∃ p : Parameters, p.resolution.index = b.toNat / 4 % 4 ∧
    p.gain.index = b.toNat % 4 ∧ p.channel.index = b.toNat / 32 % 4 ∧
    Answers (.dec b) s ((ParamsWord.ofParameters p).toBits.setWidth 64) ∧
    Answers (.enc (ParamsWord.ofParameters p)) s (b.setWidth 64))

/-- Rule R58: 4 bytes for 18-bit, 3 for the other resolutions, `InvalidParameter` outside them. -/
def Obligations.BcntAnswersFrameLength : Prop :=
  ∀ (res : BitVec 5) (s : State), Answers (.bcnt res) s
    (if res.toNat = 18 then 4#64 else if res.toNat ∈ [12, 14, 16] then 3#64 else invalidParameterWord)

/-- Rules R59, R60, R61: XTR answers the data field, negated when its top bit is set; a `RES` outside the
enumeration and, under `STRICT_LEN`, a short buffer end with their statuses. -/
def Obligations.XtrAnswersNegatedField : Prop :=
  ∀ (res : BitVec 5) (buf : Buffer) (s : State),
    (res.toNat ∈ [12, 14, 16, 18] →
      (s.config.strictLen = true → frameLength res.toNat ≤ buf.len.toNat) →
      Answers (.xtr res buf) s (BitVec.ofNat 64 (twosComplement 19 (codeOf res.toNat buf)))) ∧
    (res.toNat ∈ [12, 14, 16, 18] →
      s.config.strictLen = true → buf.len.toNat < frameLength res.toNat →
      Answers (.xtr res buf) s invalidBufferLengthWord) ∧
    (res.toNat ∉ [12, 14, 16, 18] → Answers (.xtr res buf) s invalidParameterWord)

/-- Rule R62: the set of codes XTR produces at a resolution, and that different data fields give
different codes. -/
def Obligations.XtrCodeSetAndInjectivity : Prop :=
  ∀ res : BitVec 5, res.toNat ∈ [12, 14, 16, 18] →
    (∀ code : Int,
      (-(2 ^ 18 : Int) ≤ code ∧ code < 2 ^ 18 ∧
        ∃ (s : State) (buf : Buffer), s.config.strictLen = false ∧ buf.len.toNat ≤ 4 ∧
          Answers (.xtr res buf) s (BitVec.ofNat 64 (twosComplement 19 code))) ↔
      (0 ≤ code ∧ code < 2 ^ (res.toNat - 1)) ∨
        (-(2 ^ res.toNat - 1 : Int) ≤ code ∧ code ≤ -(2 ^ (res.toNat - 1) : Int))) ∧
    (∀ (s : State) (b c : Buffer) (r : Response), s.config.strictLen = false →
      Answers (.xtr res b) s r → Answers (.xtr res c) s r → dataOf res.toNat b = dataOf res.toNat c)

/-- Rules R22, R59: the bits of `b[0]` above the mask have no effect on XTR. -/
def Obligations.XtrIgnoresBitsAboveMask : Prop :=
  ∀ (res : BitVec 5) (buf : Buffer) (x : Byte) (s : State), res.toNat ∈ [12, 14, 16, 18] →
    x.toNat % 2 ^ keptBits res.toNat = buf.b0.toNat % 2 ^ keptBits res.toNat →
    ∃ r, Answers (.xtr res buf) s r ∧ Answers (.xtr res { buf with b0 := x }) s r

/-- Rules R19, R37, R39: lanes at or beyond `LEN` have no effect on XTR and PROC. -/
def Obligations.LanesBeyondLengthAreIgnored : Prop :=
  ∀ (b c : Buffer) (res : BitVec 5) (s : State), b.len = c.len → bufferBytes b = bufferBytes c →
    (∃ r, Answers (.xtr res b) s r ∧ Answers (.xtr res c) s r) ∧
    (∃ r, Answers (.proc b) s r ∧ Answers (.proc c) s r)

/-- Rule R66: VOLT answers the exact product `code * lsb_microvolts / gain_divisor` in Q9, for every
19-bit code, and it fits 38 bits; a field outside its enumeration ends with `InvalidParameter`. -/
def Obligations.VoltAnswersExactProduct : Prop :=
  ∀ (res : BitVec 5) (gain : BitVec 4) (code : BitVec 19) (s : State),
    (∀ (lsb : Rat) (divisor : Nat),
      (res.toNat, lsb) ∈ [(12, (1000 : Rat)), (14, 250), (16, 125 / 2), (18, 125 / 8)] →
      divisor = gain.toNat → divisor ∈ [1, 2, 4, 8] →
      ∃ uv : Int, (uv : Rat) / 512 = code.toInt * lsb / divisor ∧
        -(2 ^ 37 : Int) ≤ uv ∧ uv < 2 ^ 37 ∧
        Answers (.volt res gain code) s (BitVec.ofNat 64 (twosComplement 38 uv))) ∧
    (res.toNat ∉ [12, 14, 16, 18] ∨ gain.toNat ∉ [1, 2, 4, 8] →
      Answers (.volt res gain code) s invalidParameterWord)

/-- Rule R65: each entry of the scale table is `1000 << n` with `n = 9 - 2k - g`, and stands for
`lsb_microvolts / gain_divisor`. -/
def Obligations.ScaleTableIsShiftedThousand : Prop :=
  ∀ (r : Resolution) (g : Gain),
    scaleQ9 r g = scaleOf r.bits (Nat.log2 (gainDivisor g)) ∧
    ((scaleQ9 r g : Int) : Rat) = 512 * lsbMicrovolts r / gainDivisor g

/-- Rule R67: DOC00's floating-point formula gives the fixed-point result exactly, for every rounding
that leaves a representable value alone and in every order of the operations.  What counts as
representable rests on log entry 9. -/
def Obligations.FloatingPointEqualsFixedPoint : Prop :=
  ∀ rnd : Rat → Rat, (∀ q, IsBinary64 q → rnd q = q) →
    ∀ (r : Resolution) (g : Gain) (code : Int), -(2 ^ 18 : Int) ≤ code → code ≤ 2 ^ 18 →
      microVoltFloat rnd r g code = voltageQ9 r g code / 512 ∧
      microVoltFloatScaleFirst rnd r g code = voltageQ9 r g code / 512 ∧
      microVoltFloatDivFirst rnd r g code = voltageQ9 r g code / 512 ∧
      microVolt r g code = voltageQ9 r g code / 512

/-- Rule R68: (a) every 19-bit code keeps `uv_q9` below `2^37`; (b) the bounds for the codes XTR produces
at the same resolution, at gain x1 and smaller by the gain otherwise, with both ends reached. -/
def Obligations.VoltageBounds : Prop :=
  (∀ (r : Resolution) (g : Gain) (code : BitVec 19),
    (voltageQ9 r g code.toInt).natAbs ≤ 134217728000 ∧ (134217728000 : Nat) < 2 ^ 37) ∧
  (∀ (r : Resolution) (g : Gain) (buf : Buffer),
    (uvBounds r).1 ≤ voltageQ9 r g (outputCode r buf) * gainDivisor g ∧
    voltageQ9 r g (outputCode r buf) * gainDivisor g ≤ (uvBounds r).2 ∧
    -(2 ^ 31 : Int) ≤ voltageQ9 r g (outputCode r buf) ∧
    voltageQ9 r g (outputCode r buf) ≤ 2 ^ 31 - 1) ∧
  (∀ r : Resolution, (∃ buf, voltageQ9 r .x1 (outputCode r buf) = (uvBounds r).1) ∧
    (∃ buf, voltageQ9 r .x1 (outputCode r buf) = (uvBounds r).2))

/-- Rule R69: PROC answers the parameters of the buffer's own last byte and the scaled code; only under
`STRICT_LEN` does a short buffer end with `InvalidBufferLength`. -/
def Obligations.ProcAnswersReading : Prop :=
  ∀ (buf : Buffer) (s : State), buf.len.toNat ≤ 4 →
    ((s.config.strictLen = true → ¬ procShort buf) →
      Answers (.proc buf) s
        (BitVec.ofNat 64 (paramsIn (lastOf buf) * 2 ^ 38 + twosComplement 38 (readingUv buf)))) ∧
    (s.config.strictLen = true → procShort buf → Answers (.proc buf) s invalidBufferLengthWord)

/-- Rule R70: PROC is the composition of DEC, XTR and VOLT, and ENC of the returned parameters gives the
configuration byte back. -/
def Obligations.ProcComposesDecXtrVolt : Prop :=
  ∀ (buf : Buffer) (s : State), buf.len.toNat ≤ 4 → s.config.strictLen = false →
    ∃ d x v : Response,
      Answers (.dec (lastOf buf)) s d ∧
      Answers (.xtr (d.extractLsb' 9 5) buf) s x ∧
      Answers (.volt (d.extractLsb' 9 5) (d.extractLsb' 5 4) (x.extractLsb' 0 19)) s v ∧
      Answers (.proc buf) s (0#7 ++ d.extractLsb' 0 19 ++ v.extractLsb' 0 38) ∧
      Answers (.enc (ParamsWord.ofBits (d.extractLsb' 0 19))) s ((lastOf buf).setWidth 64)

/-- Rule R30: this hardware takes `STRICT_LEN = false`, under which no operation reports
`InvalidBufferLength`; with it true XTR and PROC refuse exactly the short buffers, and answer every other
buffer, an over-long one included, as they do without it. -/
def Obligations.StrictLengthCheckRefusesShortBuffersOnly : Prop :=
  State.reset.config.strictLen = false ∧
  (∀ (i : Instr) (s : State) (r : Response), s.config.strictLen = false → Answers i s r →
    statusField r ≠ 0b10#2) ∧
  ∀ (buf : Buffer) (s : State), buf.len.toNat ≤ 4 → s.config.strictLen = true →
    (∀ res : BitVec 5, res.toNat ∈ [12, 14, 16, 18] →
      (buf.len.toNat < frameLength res.toNat → Answers (.xtr res buf) s invalidBufferLengthWord) ∧
      (frameLength res.toNat ≤ buf.len.toNat → ∃ r, statusField r = 0b00#2 ∧
        Answers (.xtr res buf) s r ∧
        Answers (.xtr res buf) { s with config := { strictLen := false } } r)) ∧
    (procShort buf → Answers (.proc buf) s invalidBufferLengthWord) ∧
    (¬ procShort buf → ∃ r, statusField r = 0b00#2 ∧ Answers (.proc buf) s r ∧
      Answers (.proc buf) { s with config := { strictLen := false } } r)

/-- Rule R86: the ready flag gates nothing.  Flipping bit 7 of a frame's configuration byte flips bit 41
of the response, the returned flag, and nothing else. -/
def Obligations.ReadyFlagGatesNothing : Prop :=
  ∀ (buf : Buffer) (s : State),
    (buf.len.toNat = 3 → resolutionIn buf.b2 ≠ 18 →
      ∃ r, statusField r = 0b00#2 ∧ Answers (.proc buf) s r ∧
        Answers (.proc { buf with b2 := buf.b2 ^^^ 0x80#8 }) s (r ^^^ 0x200_0000_0000#64)) ∧
    (buf.len.toNat = 4 →
      ∃ r, statusField r = 0b00#2 ∧ Answers (.proc buf) s r ∧
        Answers (.proc { buf with b3 := buf.b3 ^^^ 0x80#8 }) s (r ^^^ 0x200_0000_0000#64))

/-- Rule R85: a four-byte buffer whose last byte reports 12, 14 or 16 bits is processed without looking
at `b[2]`. -/
def Obligations.ProcIgnoresMiddleByteOfLongBuffer : Prop :=
  ∀ (buf : Buffer) (x : Byte) (s : State), buf.len.toNat = 4 → resolutionIn buf.b3 ≠ 18 →
    ∃ r, statusField r = 0b00#2 ∧ Answers (.proc buf) s r ∧ Answers (.proc { buf with b2 := x }) s r

/-- Rule R75: the reserved operation code answers `IllegalRequest`, whatever its other bits. -/
def Obligations.ReservedOpAnswersIllegalRequest : Prop :=
  ∀ (ignored : BitVec 45) (s : State), Answers (.reservedOp7 ignored) s illegalRequestWord

/-- Rules R73, R74: every operation answers, and its status is an error exactly for the causes the rules
list; on typed operands `InvalidParameter` does not happen. -/
def Obligations.StatusHasExactlyItsCauses : Prop :=
  (∀ (i : Instr) (s : State), i.wellFormed = true →
    ∃ r, Answers i s r ∧
      (statusField r = 0b01#2 ↔ InvalidParameterCause i) ∧
      (statusField r = 0b10#2 ↔ s.config.strictLen = true ∧ InvalidBufferLengthCause i) ∧
      (statusField r = 0b11#2 ↔ IsReserved i)) ∧
  (∀ (p : Parameters) (buf : Buffer) (code : BitVec 19) (s : State) (i : Instr) (r : Response),
    i ∈ [Instr.enc (ParamsWord.ofParameters p), .bcnt p.resolution.field, .xtr p.resolution.field buf,
      .volt p.resolution.field p.gain.field code] →
    Answers i s r → statusField r ≠ 0b01#2)

/-- Every operation's frame (rules R9, R11, R77): it leaves the configuration, the waiting requests and
every earlier response as they were, and gives one response. -/
def Obligations.OperationsChangeOnlyTheResponsePort : Prop :=
  ∀ (i : Instr) (s t : State), exec i s = .next t →
    t.config = s.config ∧ t.requests = s.requests ∧ ∃ r, t.responses = s.responses ++ [r]

/-- Rule R45: the next request ends with `IllegalRequest`, nothing else changing, exactly when its word
is illegal. -/
def Obligations.IllegalWordsAreRefusedExactly : Prop :=
  ∀ (s : State) (w : Request) (rest : List Request), s.requests = w :: rest →
    ∃ r, step s = .next { s with requests := rest, responses := s.responses ++ [r] } ∧
      (statusField r = 0b11#2 ↔ IllegalWord w) ∧ (IllegalWord w → r = illegalRequestWord)

/-- Rule R76: of several conditions one is reported: `IllegalRequest`, then `InvalidParameter`, then
`InvalidBufferLength`; XTR is the operation that can meet all three. -/
def Obligations.ErrorPriority : Prop :=
  ∀ (s : State) (w : Request) (rest : List Request), s.requests = w :: rest →
    ∃ r, step s = .next { s with requests := rest, responses := s.responses ++ [r] } ∧
      (IllegalWord w → r = illegalRequestWord) ∧
      (¬ IllegalWord w → opOf w = 4 → xtrResOf w ∉ [12, 14, 16, 18] → r = invalidParameterWord) ∧
      (¬ IllegalWord w → opOf w = 4 → xtrResOf w ∈ [12, 14, 16, 18] → s.config.strictLen = true →
        lenOf w < frameLength (xtrResOf w) → r = invalidBufferLengthWord)

/-- Decoding an encoded well-formed instruction gives it back, every operand at every value
(rules R31 to R40). -/
def Obligations.DecodeOfEncode : Prop :=
  ∀ i : Instr, i.wellFormed = true → decode (encode i) = .ok i

/-- A request word has one meaning: what it decodes to encodes to the same word, and is well formed. -/
def Obligations.EncodeOfDecode : Prop :=
  ∀ (w : Request) (i : Instr), decode w = .ok i → encode i = w ∧ i.wellFormed = true

/-- Words written out from rules R33 to R39 decode to their instructions. -/
def Obligations.WrittenOutWordsDecode : Prop :=
  decodeTableWord 48 0b000_000000000000000000000000000000000000000000_0_1_1
    = some (.addr true true false) ∧
  decodeTableWord 48 0b010_0000000000000000000000000000000000000_10011000
    = some (.dec 0x98#8) ∧
  decodeTableWord 48 0b011_0000000000000000000000000000000000000000_10010
    = some (.bcnt 18#5) ∧
  decodeTableWord 48 0b101_00000000000000000_10000_0001_0000000001110010001
    = some (.volt 16#5 1#4 913#19) ∧
  decodeTableWord 48 0b100_00000_01100_101_00000000000000000000000000000000 = none

/-- A step runs the decoded request: it takes the request off the list and runs its instruction
(rules R9, R31; the list of waiting requests is the model's, log entry 4). -/
def Obligations.StepRunsTheDecodedRequest : Prop :=
  ∀ (s : State) (w : Request) (rest : List Request) (i : Instr), s.requests = w :: rest →
    decode w = .ok i → step s = exec i { s with requests := rest }

/-- With no request presented a step changes nothing: the model's choice (log entry 5). -/
def Obligations.StepWithoutRequestIsIdle : Prop :=
  ∀ s : State, s.requests = [] → step s = .next s

/-- The table word of an instruction, presented as the next request, is the one the step runs (log entry
4: presenting a request is the model's way of loading one). -/
def Obligations.PresentedTableWordRuns : Prop :=
  ∀ (s : State) (i : Instr), i.wellFormed = true →
    decodeTableWord 48 (encode i).toNat = some i ∧
    step (s.withFetchWord 48 (encode i).toNat) = exec i s

/-- Rule R9: the machine is the pure function of rule R9.  A step answers the next request with
`eval(configuration, request)`, whatever came before. -/
def Obligations.StepRefinesPureEvaluation : Prop :=
  ∀ (s : State) (w : Request) (rest : List Request), s.requests = w :: rest →
    step s = .next { s with requests := rest, responses := s.responses ++ [eval s.config w] }

/-- Rule R27 (a) and (c): the response to a request depends on that request and on `STRICT_LEN` only. -/
def Obligations.ResponseDependsOnRequestAndPolicyOnly : Prop :=
  ∀ (s t : State) (w : Request) (rest more : List Request), s.config = t.config →
    s.requests = w :: rest → t.requests = w :: more →
    ∃ r, step s = .next { s with requests := rest, responses := s.responses ++ [r] } ∧
      step t = .next { t with requests := more, responses := t.responses ++ [r] }

/-- Rules R9, R78: a run answers every request, each as if it were alone: an error leaves nothing behind,
and there is no hang.  That requests wait in a list and are answered one per step in its order is the
model's choice (log entries 4 and 12). -/
def Obligations.RunAnswersEveryRequest : Prop :=
  ∀ s : State, Host.Core.run core s.requests.length s
    = .next { s with requests := [], responses := s.responses ++ s.requests.map (eval s.config) }

/-- Rule R27 (b): requests may be evaluated in any order; every request has the same response. -/
def Obligations.ReorderedRequestsGetTheSameResponses : Prop :=
  ∀ (c : Config) (ws vs : List Request), ws.Perm vs →
    ∃ rs qs : List Response,
      Host.Core.run core ws.length { config := c, requests := ws, responses := [] }
        = .next { config := c, requests := [], responses := rs } ∧
      Host.Core.run core vs.length { config := c, requests := vs, responses := [] }
        = .next { config := c, requests := [], responses := qs } ∧
      (ws.zip rs).Perm (vs.zip qs)

/-- Rule R77, as the model takes it (log entry 2): a request that ends with an error status gives its
response word, with a zero payload, and nothing else happens. -/
def Obligations.ErrorResponseCarriesNothingElse : Prop :=
  ∀ (s : State) (w : Request) (rest : List Request), s.requests = w :: rest →
    ∃ r, step s = .next { s with requests := rest, responses := s.responses ++ [r] } ∧
      (statusField r ≠ 0b00#2 → payloadField r = 0#62)

/-- Every state steps to a next state, and a presented request is consumed and answered (rule R9: every
run ends, there is no stuck state).  That a state with no request presented steps too, and unchanged, is
the model's choice (log entry 5), as the two lists are (log entry 4). -/
def Obligations.EveryStateSteps : Prop :=
  ∀ s : State, ∃ t, step s = .next t ∧
    t.requests.length + t.responses.length = s.requests.length + s.responses.length ∧
    t.requests = s.requests.tail ∧ s.responses <+: t.responses

/-- Every step keeps the invariant: error responses carry a zero payload, `OK` payloads use only the bits
rule R44 names, and without `STRICT_LEN` no response is `InvalidBufferLength`. -/
def Obligations.StepKeepsResponsesAllowed : Prop :=
  ∀ s t : State, s.Inv → step s = .next t → t.Inv

/-- The invariant holds at reset. -/
def Obligations.ResetResponsesAllowed : Prop := State.reset.Inv

/-- Rule R81: an `IoError` of either bus transaction reaches the host's caller unchanged. -/
def Obligations.IoErrorPropagatesUnchanged : Prop :=
  ∀ (ε : Type) (e : ε) (s : State),
    (∀ (write : Byte → List Byte → Except ε Unit) (a0 a1 a2 : Bool) (p : ParamsWord) (r : Response),
      Answers (.enc p) s r → statusField r = 0b00#2 →
      write (if a1 then 0x0f#8 else 0x0d#8) [r.extractLsb' 0 8] = .error e →
      configureConverter s.config write a0 a1 a2 p = .error (.ioError e)) ∧
    (∀ (read : Byte → Nat → Except ε (List Byte)) (a : Byte) (res : BitVec 5),
      res.toNat ∈ [12, 14, 16, 18] → read a (frameLength res.toNat) = .error e →
      takeReading s.config read a res = .error (.ioError e))

/-- Rule R84, steps 1 to 4: the host calls `write` with the address of the straps and the single encoded
configuration byte, and what it returns decides how configuring ends.  That a parameter set the unit
refuses is not written and ends with its status is the model's choice (log entry 11). -/
def Obligations.HostWritesTheEncodedByte : Prop :=
  ∀ (ε : Type) (s : State) (write : Byte → List Byte → Except ε Unit) (a0 a1 a2 : Bool)
    (p : ParamsWord) (r : Response), Answers (.enc p) s r →
    (statusField r = 0b00#2 →
      configureConverter s.config write a0 a1 a2 p
        = match write (if a1 then 0x0f#8 else 0x0d#8) [r.extractLsb' 0 8] with
          | .error e => .error (.ioError e)
          | .ok () => .ok { address := if a1 then 0x0f#8 else 0x0d#8, cfg := r.extractLsb' 0 8 }) ∧
    (statusField r ≠ 0b00#2 →
      configureConverter s.config write a0 a1 a2 p = .error (.codecStatus (statusField r)))

/-- Rules R71, R84 steps 5 to 7: the host reads `byte_count` bytes and the reading is PROC of the bytes
returned. -/
def Obligations.HostReadingIsProcOfTheBytesRead : Prop :=
  ∀ (ε : Type) (s : State) (read : Byte → Nat → Except ε (List Byte)) (a : Byte) (res : BitVec 5)
    (bytes : List Byte) (buf : Buffer) (r : Response), res.toNat ∈ [12, 14, 16, 18] →
    read a (frameLength res.toNat) = .ok bytes → Buffer.ofBytes? bytes = some buf →
    Answers (.proc buf) s r → statusField r = 0b00#2 →
    takeReading s.config read a res = .ok r

/-- Rule R85: the host's check finds exactly the readings whose reported resolution is not the one asked
for. -/
def Obligations.MismatchCheckComparesReportedResolution : Prop :=
  ∀ (buf : Buffer) (s : State) (res : BitVec 5) (r : Response), buf.len.toNat ≤ 4 →
    s.config.strictLen = false → Answers (.proc buf) s r →
    (reportedAsAsked res r = true ↔ res.toNat = resolutionIn (lastOf buf)) ∧
    (isFresh r = true ↔ bitOf (lastOf buf) 7 = 0)

/-- Rule R48: the two pseudo-operations' request words and answers. -/
def Obligations.PseudoOperationsExpand : Prop :=
  (assemble .addr0).map encode = some 0x0000_0000_0000#48 ∧
  (assemble .encd).map encode = some 0x2000_0000_0000#48 ∧
  ∀ s : State,
    (∃ i, assemble .addr0 = some i ∧ Answers i s 0x0d#64) ∧
    (∃ i, assemble .encd = some i ∧ Answers i s 0x90#64)

/-- Rule R47: which instruction each form of a written request stands for, and that the instruction's word
decodes to it.  A field is present exactly when it is written, a number is kept as it is, `mode=cont` is
1, `LEN` is the number of bytes listed, the first byte is `b[0]`, and the code is a signed 19-bit number.
That a number too large for its field and a fifth byte assemble to nothing, and that don't-care bits are
written as 0, is the model's choice (log entry 10). -/
def Obligations.AssembledRequestsDecode : Prop :=
  (∀ (l : AsmLine) (i : Instr), assemble l = some i → decode (encode i) = .ok i) ∧
  (∀ a0 a1 a2 : Bool, assemble (.addr a0 a1 a2) = some (.addr a0 a1 a2)) ∧
  (∀ (ch : Option Nat) (rdy : Option Bool) (mode : Option Mode) (gain res : Option Nat),
    (FitsField 3 ch ∧ FitsField 4 gain ∧ FitsField 5 res →
      ∃ p : ParamsWord, assemble (.enc ch rdy mode gain res) = some (.enc p) ∧
        p.pCh = ch.isSome ∧ p.pRdy = rdy.isSome ∧ p.pMode = mode.isSome ∧ p.pGain = gain.isSome ∧
        p.pRes = res.isSome ∧
        p.ch.toNat = ch.getD 0 ∧ p.gain.toNat = gain.getD 0 ∧ p.res.toNat = res.getD 0 ∧
        (p.rdy = true ↔ rdy = some true) ∧ (p.mode = true ↔ mode = some .continuous)) ∧
    (¬ (FitsField 3 ch ∧ FitsField 4 gain ∧ FitsField 5 res) →
      assemble (.enc ch rdy mode gain res) = none)) ∧
  (∀ cfg : Byte, assemble (.dec cfg) = some (.dec cfg)) ∧
  (∀ res : Nat,
    (res < 32 → ∃ r : BitVec 5, r.toNat = res ∧ assemble (.bcnt res) = some (.bcnt r)) ∧
    (32 ≤ res → assemble (.bcnt res) = none)) ∧
  (∀ (res : Nat) (bytes : List Byte),
    (res < 32 ∧ bytes.length ≤ 4 → ∃ (r : BitVec 5) (b : Buffer), r.toNat = res ∧ Lists b bytes ∧
      assemble (.xtr res bytes) = some (.xtr r b)) ∧
    (32 ≤ res ∨ 4 < bytes.length → assemble (.xtr res bytes) = none)) ∧
  (∀ (res gain : Nat) (code : Int),
    (res < 32 ∧ gain < 16 ∧ -(2 ^ 18 : Int) ≤ code ∧ code < 2 ^ 18 →
      ∃ (r : BitVec 5) (g : BitVec 4) (c : BitVec 19), r.toNat = res ∧ g.toNat = gain ∧
        c.toInt = code ∧ assemble (.volt res gain code) = some (.volt r g c)) ∧
    (32 ≤ res ∨ 16 ≤ gain ∨ code < -(2 ^ 18 : Int) ∨ 2 ^ 18 ≤ code →
      assemble (.volt res gain code) = none)) ∧
  (∀ bytes : List Byte,
    (bytes.length ≤ 4 → ∃ b : Buffer, Lists b bytes ∧ assemble (.proc bytes) = some (.proc b)) ∧
    (4 < bytes.length → assemble (.proc bytes) = none))

/-- Rule R84, steps 1 to 7: the host selects the strap address, writes the one encoded byte there, then
reads `byte_count` bytes of the resolution it asked for (12 bits when the field is absent) as often as it
wants a reading, each reading being PROC of the bytes returned; an `IoError` of the write or of a read ends
the sequence, unchanged, and nothing more is done on the bus.  What the bus answers may depend on all that
was done on it before (log entry 13). -/
def Obligations.SessionFollowsTheBootAndUseSequence : Prop :=
  ∀ (ε : Type) (s : State) (bus : Bus ε) (a0 a1 a2 : Bool) (p : ParamsWord) (r : Response)
    (past : List BusAction) (address : Byte) (count : Nat),
    Answers (.enc p) s r → statusField r = 0b00#2 →
    address = (if a1 then 0x0f#8 else 0x0d#8) →
    count = frameLength (if p.pRes then p.res.toNat else 12) →
    (∀ (e : ε) (n : Nat),
      bus.write (past ++ [.select address]) address [r.extractLsb' 0 8] = .error e →
      runSession s.config bus a0 a1 a2 p n past
        = { actions := past ++ [.select address, .write address [r.extractLsb' 0 8]],
            readings := [], stop := some (.ioError e) }) ∧
    (bus.write (past ++ [.select address]) address [r.extractLsb' 0 8] = .ok () →
      ∀ (bytes : Nat → List Byte) (buf : Nat → Buffer) (q : Nat → Response) (k : Nat),
        (∀ j < k,
          bus.read (past ++ [.select address, .write address [r.extractLsb' 0 8]]
            ++ List.replicate j (.read address count)) address count = .ok (bytes j) ∧
          Buffer.ofBytes? (bytes j) = some (buf j) ∧ Answers (.proc (buf j)) s (q j) ∧
          statusField (q j) = 0b00#2) →
        runSession s.config bus a0 a1 a2 p k past
          = { actions := past ++ [.select address, .write address [r.extractLsb' 0 8]]
                ++ List.replicate k (.read address count),
              readings := (List.range k).map q, stop := none } ∧
        ∀ (e : ε) (n : Nat), k < n →
          bus.read (past ++ [.select address, .write address [r.extractLsb' 0 8]]
            ++ List.replicate k (.read address count)) address count = .error e →
          runSession s.config bus a0 a1 a2 p n past
            = { actions := past ++ [.select address, .write address [r.extractLsb' 0 8]]
                  ++ List.replicate (k + 1) (.read address count),
                readings := (List.range k).map q, stop := some (.ioError e) })
end

