-- ==== Sys2Proof/Laws/PerInstr.lean ====
section
/-! SUPPORT. Statements made per instruction.  Family `EncodedRow`: an encoded instruction matches its
row of the opcode table, so its operation code is its own and its must-be-zero bits are 0
(`30_encoding.md` rules R33 to R39, R45 (b)). -/

namespace Sys2Proof.Laws.EncodedRow

/-- The request word of `i` passes `(REQ & mask) = match` of its own row. -/
def Statement (i : Instr) : Prop :=
  encode i &&& (opcodeOfInstr i).maskWord = (opcodeOfInstr i).matchWord

theorem addr (a0 a1 a2 : Bool) : Statement (.addr a0 a1 a2) := by
  cases a0 <;> cases a1 <;> cases a2 <;> rfl

/-- The operation code and the must-be-zero bits pass their own mask. -/
theorem and_mask {m k : Nat} (op : BitVec m) :
    (op ++ 0#k) &&& (BitVec.allOnes m ++ BitVec.allOnes k) = op ++ 0#k := by
  rw [BitVec.and_append]
  simp

/-- An operand field appended below is masked out. -/
theorem and_mask_operand {m n : Nat} {a mask row : BitVec m} (x : BitVec n) (h : a &&& mask = row) :
    (a ++ x) &&& (mask ++ 0#n) = row ++ 0#n := by
  rw [BitVec.and_append, h]
  simp

theorem enc (params : ParamsWord) : Statement (.enc params) := by
  have hm : Opcode.maskWord .enc = BitVec.allOnes 3 ++ BitVec.allOnes 26 ++ 0#19 := by decide
  have hr : Opcode.matchWord .enc = 0b001#3 ++ 0#26 ++ 0#19 := by decide
  simp only [Statement, encode, opcodeOfInstr]
  rw [hm, hr]
  exact and_mask_operand params.toBits (and_mask 0b001#3)

theorem dec (cfg : Byte) : Statement (.dec cfg) := by
  have hm : Opcode.maskWord .dec = BitVec.allOnes 3 ++ BitVec.allOnes 37 ++ 0#8 := by decide
  have hr : Opcode.matchWord .dec = 0b010#3 ++ 0#37 ++ 0#8 := by decide
  simp only [Statement, encode, opcodeOfInstr]
  rw [hm, hr]
  exact and_mask_operand cfg (and_mask 0b010#3)

theorem bcnt (res : BitVec 5) : Statement (.bcnt res) := by
  have hm : Opcode.maskWord .bcnt = BitVec.allOnes 3 ++ BitVec.allOnes 40 ++ 0#5 := by decide
  have hr : Opcode.matchWord .bcnt = 0b011#3 ++ 0#40 ++ 0#5 := by decide
  simp only [Statement, encode, opcodeOfInstr]
  rw [hm, hr]
  exact and_mask_operand res (and_mask 0b011#3)

theorem xtr (res : BitVec 5) (buf : Buffer) : Statement (.xtr res buf) := by
  have hm : Opcode.maskWord .xtr = BitVec.allOnes 3 ++ BitVec.allOnes 5 ++ 0#5 ++ 0#35 := by decide
  have hr : Opcode.matchWord .xtr = 0b100#3 ++ 0#5 ++ 0#5 ++ 0#35 := by decide
  simp only [Statement, encode, opcodeOfInstr]
  rw [hm, hr]
  exact and_mask_operand (bufferBits buf) (and_mask_operand res (and_mask 0b100#3))

theorem volt (res : BitVec 5) (gain : BitVec 4) (code : BitVec 19) :
    Statement (.volt res gain code) := by
  have hm : Opcode.maskWord .volt
      = BitVec.allOnes 3 ++ BitVec.allOnes 17 ++ 0#5 ++ 0#4 ++ 0#19 := by decide
  have hr : Opcode.matchWord .volt = 0b101#3 ++ 0#17 ++ 0#5 ++ 0#4 ++ 0#19 := by decide
  simp only [Statement, encode, opcodeOfInstr]
  rw [hm, hr]
  exact and_mask_operand code
    (and_mask_operand gain (and_mask_operand res (and_mask 0b101#3)))

theorem proc (buf : Buffer) : Statement (.proc buf) := by
  have hm : Opcode.maskWord .proc = BitVec.allOnes 3 ++ BitVec.allOnes 10 ++ 0#35 := by decide
  have hr : Opcode.matchWord .proc = 0b110#3 ++ 0#10 ++ 0#35 := by decide
  simp only [Statement, encode, opcodeOfInstr]
  rw [hm, hr]
  exact and_mask_operand (bufferBits buf) (and_mask 0b110#3)

theorem reservedOp7 (ignored : BitVec 45) : Statement (.reservedOp7 ignored) := by
  have hm : Opcode.maskWord .reserved = BitVec.allOnes 3 ++ 0#45 := by decide
  have hr : Opcode.matchWord .reserved = 0b111#3 ++ 0#45 := by decide
  simp only [Statement, encode, opcodeOfInstr]
  rw [hm, hr]
  exact and_mask_operand ignored (by decide)

end Sys2Proof.Laws.EncodedRow
end

