-- ==== Sys2Proof/Laws/Codec.lean ====
section
/-! SUPPORT. Reading a field back from a concatenation, and from it the operand words: the `PARAMS` word,
the buffer lanes and the operation code of an encoded instruction. -/

namespace Sys2Proof

/-- A bit of the low part of a concatenation. -/
theorem bit_append_low {m n : Nat} (a : BitVec m) (b : BitVec n) {k : Nat} (h : k < n) :
    (a ++ b).getLsbD k = b.getLsbD k := by
  simp [BitVec.getLsbD_append, h]

/-- A bit of the high part of a concatenation. -/
theorem bit_append_high {m n : Nat} (a : BitVec m) (b : BitVec n) {k : Nat} (h : n ≤ k) :
    (a ++ b).getLsbD k = a.getLsbD (k - n) := by
  simp [BitVec.getLsbD_append, Nat.not_lt.mpr h]

/-- A field inside the low part of a concatenation. -/
theorem field_append_low {m n : Nat} (a : BitVec m) (b : BitVec n) {k w : Nat} (h : k + w ≤ n) :
    (a ++ b).extractLsb' k w = b.extractLsb' k w := by
  apply BitVec.eq_of_getLsbD_eq
  intro i hi
  simp only [BitVec.getLsbD_extractLsb', hi, decide_true, Bool.true_and]
  exact bit_append_low a b (by omega)

/-- A field inside the high part of a concatenation. -/
theorem field_append_high {m n : Nat} (a : BitVec m) (b : BitVec n) {k w : Nat} (h : n ≤ k) :
    (a ++ b).extractLsb' k w = a.extractLsb' (k - n) w := by
  apply BitVec.eq_of_getLsbD_eq
  intro i hi
  simp only [BitVec.getLsbD_extractLsb', hi, decide_true, Bool.true_and]
  rw [bit_append_high a b (by omega)]
  congr 1
  omega

/-- A whole value as a field. -/
theorem field_whole {n : Nat} (a : BitVec n) : a.extractLsb' 0 n = a := by
  apply BitVec.eq_of_getLsbD_eq
  intro i hi
  simp [hi]

/-- A zero-extended value as a field. -/
theorem field_setWidth {n m : Nat} (a : BitVec n) (h : n ≤ m) :
    (a.setWidth m).extractLsb' 0 n = a := by
  apply BitVec.eq_of_getLsbD_eq
  intro i hi
  simp [hi, show i < m by omega]

/-- Zeros above a zero-extended value are one zero extension. -/
theorem zeros_append_setWidth {n k m : Nat} (a : BitVec n) (h : n ≤ m) :
    (0#k ++ a.setWidth m) = a.setWidth (k + m) := by
  apply BitVec.eq_of_toNat_eq
  have ha := a.isLt
  have hm : 2 ^ n ≤ 2 ^ m := Nat.pow_le_pow_right (by decide) h
  have hk : 2 ^ n ≤ 2 ^ (k + m) := Nat.pow_le_pow_right (by decide) (by omega)
  simp [BitVec.toNat_append, Nat.mod_eq_of_lt (show a.toNat < 2 ^ (k + m) by omega),
    Nat.mod_eq_of_lt (show a.toNat < 2 ^ m by omega)]

/-- The `PARAMS` word's fields are read back. -/
theorem ParamsWord.ofBits_toBits (p : ParamsWord) : ParamsWord.ofBits p.toBits = p := by
  obtain ⟨pRes, pGain, pMode, pRdy, pCh, res, gain, mode, rdy, ch⟩ := p
  simp only [ParamsWord.ofBits, ParamsWord.toBits, ParamsWord.mk.injEq]
  refine ⟨?_, ?_, ?_, ?_, ?_, ?_, ?_, ?_, ?_, ?_⟩ <;>
    repeat first
      | exact field_whole _
      | refine (bit_append_high _ _ (by decide)).trans ?_
      | refine (bit_append_low _ _ (by decide)).trans ?_
      | refine (field_append_high _ _ (by decide)).trans ?_
      | refine (field_append_low _ _ (by decide)).trans ?_
  all_goals simp

/-- The buffer's fields are read back from the low bits of formats X and B. -/
theorem bufferOf_eq {w : Request} {b : Buffer}
    (h : ∀ k n, k + n ≤ 35 → w.extractLsb' k n = (bufferBits b).extractLsb' k n) :
    bufferOf w = b := by
  obtain ⟨len, b0, b1, b2, b3⟩ := b
  simp only [bufferOf, Buffer.mk.injEq]
  refine ⟨(h 32 3 (by decide)).trans ?_, (h 24 8 (by decide)).trans ?_,
    (h 16 8 (by decide)).trans ?_, (h 8 8 (by decide)).trans ?_, (h 0 8 (by decide)).trans ?_⟩ <;>
    unfold bufferBits <;>
    repeat first
      | exact field_whole _
      | refine (field_append_high _ _ (by decide)).trans ?_
      | refine (field_append_low _ _ (by decide)).trans ?_

/-- A word is its high field above its low field. -/
theorem append_fields {m n : Nat} (w : BitVec (m + n)) :
    w.extractLsb' n m ++ w.extractLsb' 0 n = w := by
  apply BitVec.eq_of_getLsbD_eq
  intro i hi
  by_cases h : i < n
  · rw [bit_append_low _ _ h, BitVec.getLsbD_extractLsb']
    simp [h]
  · rw [bit_append_high _ _ (by omega), BitVec.getLsbD_extractLsb']
    simp only [show i - n < m by omega, decide_true, Bool.true_and]
    congr 1
    omega

/-- A one-bit field is its bit. -/
theorem ofBool_bit {n : Nat} (w : BitVec n) (k : Nat) :
    BitVec.ofBool (w.getLsbD k) = w.extractLsb' k 1 := by
  apply BitVec.eq_of_getLsbD_eq
  intro i hi
  obtain rfl : i = 0 := by omega
  simp

/-- Two adjacent fields are one field. -/
theorem append_adjacent {n : Nat} (w : BitVec n) {k a b : Nat} :
    w.extractLsb' (k + b) a ++ w.extractLsb' k b = w.extractLsb' k (a + b) := by
  apply BitVec.eq_of_getLsbD_eq
  intro i hi
  rw [BitVec.getLsbD_extractLsb']
  simp only [hi, decide_true, Bool.true_and]
  by_cases h : i < b
  · rw [bit_append_low _ _ h, BitVec.getLsbD_extractLsb']
    simp [h]
  · rw [bit_append_high _ _ (by omega), BitVec.getLsbD_extractLsb']
    simp only [show i - b < a by omega, decide_true, Bool.true_and]
    congr 1
    omega

/-- A word that passes a mask of its high bits has the row's high bits. -/
theorem high_field_of_mask {m n : Nat} {w : BitVec (m + n)} {row : BitVec m}
    (h : w &&& (BitVec.allOnes m ++ 0#n) = row ++ 0#n) : w.extractLsb' n m = row := by
  have e := congrArg (fun x => x.extractLsb' n m) h
  simp only [BitVec.extractLsb'_append_eq_left] at e
  rw [← e]
  apply BitVec.eq_of_getLsbD_eq
  intro i hi
  rw [BitVec.getLsbD_extractLsb', BitVec.getLsbD_extractLsb', BitVec.getLsbD_and,
    bit_append_high _ _ (by omega)]
  simp [hi]

/-- The `PARAMS` word is assembled from its own fields. -/
theorem ParamsWord.toBits_ofBits (w : BitVec 19) : (ParamsWord.ofBits w).toBits = w := by
  simp only [ParamsWord.ofBits, ParamsWord.toBits, ofBool_bit]
  rw [append_adjacent (k := 17) (a := 1) (b := 1)]
  rw [append_adjacent (k := 16) (a := 2) (b := 1)]
  rw [append_adjacent (k := 15) (a := 3) (b := 1)]
  rw [append_adjacent (k := 14) (a := 4) (b := 1)]
  rw [append_adjacent (k := 9) (a := 5) (b := 5)]
  rw [append_adjacent (k := 5) (a := 10) (b := 4)]
  rw [append_adjacent (k := 4) (a := 14) (b := 1)]
  rw [append_adjacent (k := 3) (a := 15) (b := 1)]
  rw [append_adjacent (k := 0) (a := 16) (b := 3)]
  exact field_whole w

/-- The operation code of an encoded instruction is its own (rule R32). -/
theorem opcodeOf_encode (i : Instr) : opcodeOf (encode i) = opcodeOfInstr i := by
  have h : (encode i).extractLsb' 45 3 = (opcodeOfInstr i).bits := by
    cases i <;> unfold encode <;>
      repeat first
        | exact field_whole _
        | refine (field_append_high _ _ (by decide)).trans ?_
  unfold opcodeOf
  rw [h]
  cases opcodeOfInstr i <;> rfl

end Sys2Proof
end

