-- ==== Sys2Proof/Laws/Extract.lean ====
section
/-! SUPPORT. The arithmetic of extraction and scaling: OR of disjoint parts is a sum
(`42_buffer_extract.md` rule R59), the data field fits its width, the code fits its port (rule R62), and
the scale table is positive (`43_voltage.md` rule R65). -/

namespace Sys2Proof.Machine

/-- A low part ORed with a masked part shifted above it is their sum. -/
theorem or_shiftLeft_mask {y m k : Nat} (x : Nat) (hy : y < 2 ^ k) :
    y ||| (x &&& (2 ^ m - 1)) <<< k = x % 2 ^ m * 2 ^ k + y := by
  rw [Nat.and_two_pow_sub_one_eq_mod, Nat.or_comm, ← Nat.shiftLeft_add_eq_or_of_lt hy,
    Nat.shiftLeft_eq]

/-- The data field of a two-data-byte frame as a number (rule R59). -/
theorem dataField_two_bytes (b : Buffer) :
    dataField .r12 b = (b.read 0).toNat % 2 ^ 4 * 2 ^ 8 + (b.read 1).toNat ∧
    dataField .r14 b = (b.read 0).toNat % 2 ^ 6 * 2 ^ 8 + (b.read 1).toNat ∧
    dataField .r16 b = (b.read 0).toNat % 2 ^ 8 * 2 ^ 8 + (b.read 1).toNat :=
  ⟨or_shiftLeft_mask (m := 4) _ (b.read 1).isLt, or_shiftLeft_mask (m := 6) _ (b.read 1).isLt,
    or_shiftLeft_mask (m := 8) _ (b.read 1).isLt⟩

/-- The data field of a three-data-byte frame as a number (rule R59). -/
theorem dataField_three_bytes (b : Buffer) :
    dataField .r18 b
      = (b.read 0).toNat % 2 ^ 2 * 2 ^ 16 + ((b.read 1).toNat * 2 ^ 8 + (b.read 2).toNat) := by
  have h1 := (b.read 1).isLt
  have h2 := (b.read 2).isLt
  have low : (b.read 2).toNat ||| (b.read 1).toNat <<< 8
      = (b.read 1).toNat * 2 ^ 8 + (b.read 2).toNat := by
    rw [Nat.or_comm, ← Nat.shiftLeft_add_eq_or_of_lt h2, Nat.shiftLeft_eq]
  unfold dataField
  rw [low]
  exact or_shiftLeft_mask (m := 2) _ (by omega)

/-- The data field fits the resolution's width (rule R59). -/
theorem dataField_lt (r : Resolution) (b : Buffer) : dataField r b < 2 ^ r.bits := by
  have h0 := (b.read 0).isLt
  have h1 := (b.read 1).isLt
  have h2 := (b.read 2).isLt
  obtain ⟨h12, h14, h16⟩ := dataField_two_bytes b
  have h18 := dataField_three_bytes b
  cases r <;> simp only [Resolution.bits] <;> omega

/-- Every code fits the 19-bit port (rule R62). -/
theorem outputCode_fits (r : Resolution) (b : Buffer) :
    -262143 ≤ outputCode r b ∧ outputCode r b ≤ 262143 := by
  have h := dataField_lt r b
  have h18 : 2 ^ r.bits ≤ 262144 := by cases r <;> decide
  unfold outputCode
  split <;> omega

/-- Every scale is positive and at most the 12-bit, x1 entry (rule R65). -/
theorem scaleQ9_bounds (r : Resolution) (g : Gain) : 0 < scaleQ9 r g ∧ scaleQ9 r g ≤ 512000 := by
  cases r <;> cases g <;> decide

end Sys2Proof.Machine
end

