-- ==== Sys2Proof/Laws/HostSequence.lean ====
section
/-! SUPPORT. What the host's sequence does in each case, said once (`70_reset_and_hazards.md` rule R84):
no reading, a reading that ends with an error, a reading that is taken, and the two ends of steps 1 to 4. -/

namespace Sys2Proof.Machine

variable {ε : Type} {c : Config} {bus : Bus ε} {address : Byte} {res : BitVec 5} {n : Nat}
  {past : List BusAction}

/-- No reading is asked for. -/
@[simp] theorem takeReadings_zero :
    takeReadings c bus address res 0 past = { actions := past, readings := [], stop := none } := rfl

/-- The next reading ends with an error. -/
theorem takeReadings_error {stop : HostStop ε}
    (h : takeReading c (bus.read past) address res = .error stop) :
    takeReadings c bus address res (n + 1) past
      = { actions := actionsAfterReading c address res past, readings := [], stop := some stop } := by
  simp only [takeReadings, h]

/-- The next reading is taken. -/
theorem takeReadings_ok {reading : Response}
    (h : takeReading c (bus.read past) address res = .ok reading) :
    takeReadings c bus address res (n + 1) past
      = { takeReadings c bus address res n (actionsAfterReading c address res past) with
          readings := reading ::
            (takeReadings c bus address res n (actionsAfterReading c address res past)).readings } := by
  simp only [takeReadings, h]

variable {a0 a1 a2 : Bool} {params : ParamsWord}

/-- Steps 1 to 4 end with an error: no reading is tried. -/
theorem runSession_error {stop : HostStop ε}
    (h : configureConverter c (bus.write (past ++ [.select (byteResult (ask c (.addr a0 a1 a2)))]))
      a0 a1 a2 params = .error stop) :
    runSession c bus a0 a1 a2 params n past
      = { actions := actionsAfterConfigure c a0 a1 a2 params past, readings := [],
          stop := some stop } := by
  simp only [runSession, h]

/-- The converter is configured: the readings follow, at its address and the resolution asked for. -/
theorem runSession_ok {configured : Configured}
    (h : configureConverter c (bus.write (past ++ [.select (byteResult (ask c (.addr a0 a1 a2)))]))
      a0 a1 a2 params = .ok configured) :
    runSession c bus a0 a1 a2 params n past
      = takeReadings c bus configured.address (requestedRes params) n
          (actionsAfterConfigure c a0 a1 a2 params past) := by
  simp only [runSession, h]

end Sys2Proof.Machine
end

