-- ==== Sys2Proof/Laws/Operands.lean ====
section
/-! SUPPORT. The operand forms: fields and enumerations, the `PARAMS` word, the buffer lanes. -/

namespace Sys2Proof

@[simp] theorem Channel.ofField?_field (c : Channel) : Channel.ofField? c.field = some c := by
  cases c <;> rfl

@[simp] theorem Gain.ofField?_field (g : Gain) : Gain.ofField? g.field = some g := by
  cases g <;> rfl

@[simp] theorem Resolution.ofField?_field (r : Resolution) :
    Resolution.ofField? r.field = some r := by
  cases r <;> rfl

@[simp] theorem Mode.ofField_field (m : Mode) : Mode.ofField m.field = m := by
  cases m <;> rfl

/-- A field inside its enumeration is its value's field. -/
theorem Channel.field_of_ofField? : ∀ (f : BitVec 3) (c : Channel), Channel.ofField? f = some c →
    c.field = f := by
  intro f c h
  cases c <;> revert f <;> decide

theorem Gain.field_of_ofField? : ∀ (f : BitVec 4) (g : Gain), Gain.ofField? f = some g →
    g.field = f := by
  intro f g h
  cases g <;> revert f <;> decide

theorem Resolution.field_of_ofField? : ∀ (f : BitVec 5) (r : Resolution),
    Resolution.ofField? f = some r → r.field = f := by
  intro f r h
  cases r <;> revert f <;> decide

/-- A full parameter record is filled by itself. -/
@[simp] theorem ParamsWord.fill_ofParameters (p : Parameters) :
    (ParamsWord.ofParameters p).fill = .ok p := by
  obtain ⟨c, r, m, g, s⟩ := p
  simp [ParamsWord.fill, ParamsWord.ofParameters, ParamsWord.channel?, ParamsWord.gain?,
    ParamsWord.resolution?, ParamsWord.modeOrDefault, ParamsWord.readyOrDefault]

/-- Everything `fill` can answer: the parameters of the three checked fields, or `InvalidParameter`. -/
theorem ParamsWord.fill_cases (p : ParamsWord) :
    (∃ c g r, p.channel? = some c ∧ p.gain? = some g ∧ p.resolution? = some r ∧
      p.fill = .ok { channel := c, readyOrConverting := p.readyOrDefault, mode := p.modeOrDefault,
                     gain := g, resolution := r }) ∨
    ((p.channel? = none ∨ p.gain? = none ∨ p.resolution? = none) ∧
      p.fill = .error .invalidParameter) := by
  unfold ParamsWord.fill
  cases hc : p.channel? with
  | none => exact .inr ⟨.inl rfl, rfl⟩
  | some c =>
    cases hg : p.gain? with
    | none => exact .inr ⟨.inr (.inl rfl), rfl⟩
    | some g =>
      cases hr : p.resolution? with
      | none => exact .inr ⟨.inr (.inr rfl), rfl⟩
      | some r => exact .inl ⟨c, g, r, rfl, rfl, rfl, rfl⟩

/-- A byte inside the buffer reads its lane. -/
theorem Buffer.read_of_lt {b : Buffer} {i : Nat} (h : i < b.len.toNat) : b.read i = b.lane i := by
  simp [Buffer.read, h]

/-- A missing byte reads zero (rule R19). -/
theorem Buffer.read_of_ge {b : Buffer} {i : Nat} (h : b.len.toNat ≤ i) : b.read i = 0#8 := by
  simp [Buffer.read, Nat.not_lt.mpr h]

end Sys2Proof
end

