-- ==== Sys2Proof/Laws/State.lean ====
section
/-! SUPPORT. One lemma per field per state update, and what taking a request does. -/

namespace Sys2Proof.Machine

@[simp] theorem pushResponse_config (r : Response) (s : State) :
    (pushResponse r s).config = s.config := rfl

@[simp] theorem pushResponse_requests (r : Response) (s : State) :
    (pushResponse r s).requests = s.requests := rfl

@[simp] theorem pushResponse_responses (r : Response) (s : State) :
    (pushResponse r s).responses = s.responses ++ [r] := rfl

@[simp] theorem present_config (w : Request) (s : State) : (present w s).config = s.config := rfl

@[simp] theorem present_requests (w : Request) (s : State) :
    (present w s).requests = w :: s.requests := rfl

@[simp] theorem present_responses (w : Request) (s : State) :
    (present w s).responses = s.responses := rfl

@[simp] theorem fetch_present (w : Request) (s : State) : fetch (present w s) = some (w, s) := rfl

theorem fetch_nil {s : State} (h : s.requests = []) : fetch s = none := by
  simp [fetch, h]

theorem fetch_cons {s : State} {w : Request} {rest : List Request} (h : s.requests = w :: rest) :
    fetch s = some (w, { s with requests := rest }) := by
  simp [fetch, h]

end Sys2Proof.Machine
end

