-- ==== Sys2Proof/Laws/Ops.lean ====
section
/-! SUPPORT. What the shared operations can do, said once: giving a response is always a next state
that appends one response word; every meaning gives the response of its evaluation; a step serves the
head of the request list. -/

namespace Sys2Proof.Machine

/-- Everything `answer` can do. -/
theorem answer_eq (e : Except Fault Result) (s : State) :
    answer e s = .next (pushResponse (responseOf e) s) := by
  cases e <;> rfl

/-- Everything a meaning can do: it gives the response of its evaluation. -/
theorem exec_eq (i : Instr) (s : State) :
    exec i s = .next (pushResponse (responseOf (evalInstr s.config i)) s) := by
  rw [← answer_eq]
  cases i <;> rfl

/-- Everything serving a request can do. -/
theorem serve_eq (w : Request) (s : State) :
    serve w s = .next (pushResponse (eval s.config w) s) := by
  cases h : decode w with
  | ok i => simp only [serve, eval, h, exec_eq]
  | error _ => simp only [serve, eval, h, raise]

/-- A step with no request presented. -/
theorem step_nil {s : State} (h : s.requests = []) : step s = .next s := by
  simp [step, fetch_nil h, idle]

/-- A step with a request presented. -/
theorem step_cons {s : State} {w : Request} {rest : List Request} (h : s.requests = w :: rest) :
    step s = serve w { s with requests := rest } := by
  simp [step, fetch_cons h]

/-- The two cases of a step. -/
theorem step_cases {s t : State} (h : step s = .next t) :
    (s.requests = [] ∧ t = s) ∨
    ∃ w rest, s.requests = w :: rest ∧
      t = pushResponse (eval s.config w) { s with requests := rest } := by
  cases hr : s.requests with
  | nil =>
    rw [step_nil hr] at h
    exact .inl ⟨rfl, (Host.Outcome.next.inj h).symm⟩
  | cons w rest =>
    rw [step_cons hr, serve_eq] at h
    exact .inr ⟨w, rest, rfl, (Host.Outcome.next.inj h).symm⟩

/-- The status of an `OK` response. -/
@[simp] theorem statusField_okResponse (r : Result) : statusField (okResponse r) = 0b00#2 :=
  BitVec.extractLsb'_append_eq_left

/-- The payload of an `OK` response. -/
@[simp] theorem payloadField_okResponse (r : Result) : payloadField (okResponse r) = payloadOf r :=
  BitVec.extractLsb'_append_eq_right

/-- The status of an error response. -/
@[simp] theorem statusField_errorResponse (f : Fault) :
    statusField (errorResponse f) = statusOfFault f :=
  BitVec.extractLsb'_append_eq_left

/-- The payload of an error response is zero. -/
@[simp] theorem payloadField_errorResponse (f : Fault) : payloadField (errorResponse f) = 0#62 :=
  BitVec.extractLsb'_append_eq_right

end Sys2Proof.Machine
end

