-- ==== Sys2Proof/Tests/Slice0.lean ====
section
/-! SUPPORT. The model's own tests: the smoke of `WellFormed`, words written out from the encoding tables,
one-step runs whose expected response words are the spec's own vectors (`95_test_vectors.md`), and for every
statement with hypotheses a witness that meets them. -/

namespace Sys2Proof.Tests

open Sys2Proof.Machine Sys2Proof.Statements

/-! ### WellFormed: the one relation the types do not carry, `LEN ≤ 4` (rule R45 (c)) -/

/-- A buffer that claims five bytes. -/
def overfull : Buffer := { len := 5#3, b0 := 0#8, b1 := 0#8, b2 := 0#8, b3 := 0#8 }

/-- A full 18-bit frame's worth of bytes. -/
def fourBytes : Buffer := { len := 4#3, b0 := 0x03#8, b1 := 0x00#8, b2 := 0x00#8, b3 := 0x7f#8 }

theorem test_overfull_xtr_is_ill_formed : (Instr.xtr 12#5 overfull).wellFormed = false := by decide

theorem test_overfull_proc_is_ill_formed : (Instr.proc overfull).wellFormed = false := by decide

theorem test_full_proc_is_well_formed : (Instr.proc fourBytes).wellFormed = true := by decide

/-! ### Decoding: words written out from rules R33 to R39, and the rejections of rule R45 by name -/

theorem test_decode_addr :
    decode 0b000_000000000000000000000000000000000000000000_1_0_1#48 = .ok (.addr true false true) := by
  decide

theorem test_decode_enc :
    decode 0b001_00000000000000000000000000_10101_10000_0001_0_1_011#48
      = .ok (.enc { pRes := true, pGain := false, pMode := true, pRdy := false, pCh := true,
                    res := 16#5, gain := 1#4, mode := false, rdy := true, ch := 3#3 }) := by
  decide

theorem test_decode_dec :
    decode 0b010_0000000000000000000000000000000000000_10011000#48 = .ok (.dec 0x98#8) := by decide

theorem test_decode_bcnt :
    decode 0b011_0000000000000000000000000000000000000000_10010#48 = .ok (.bcnt 18#5) := by decide

theorem test_decode_xtr :
    decode 0b100_00000_01100_011_10001111_11111111_10010000_00000000#48
      = .ok (.xtr 12#5 { len := 3#3, b0 := 0x8f#8, b1 := 0xff#8, b2 := 0x90#8, b3 := 0x00#8 }) := by
  decide

theorem test_decode_volt :
    decode 0b101_00000000000000000_01110_1000_1111111111111111111#48
      = .ok (.volt 14#5 8#4 0x7ffff#19) := by decide

theorem test_decode_proc :
    decode 0b110_0000000000_100_00000011_00000000_00000000_01111111#48 = .ok (.proc fourBytes) := by
  decide

theorem test_decode_reserved :
    decode 0xe000_0000_0001#48 = .ok (.reservedOp7 1#45) := by decide

theorem test_must_be_zero_rejected : decode 0x0000_0000_0008#48 = .error (.mustBeZero .addr) := by
  decide

theorem test_length_five_rejected : decode 0x8085_0000_0000#48 = .error (.bufferLength .xtr) := by
  decide

theorem test_length_seven_rejected : decode 0xc007_0000_0000#48 = .error (.bufferLength .proc) := by
  decide

/-! ### One step each, against the response words of `95_test_vectors.md` -/

/-- A machine with one request presented. -/
def asked (strict : Bool) (w : Request) : State :=
  { config := { strictLen := strict }, requests := [w], responses := [] }

/-- The responses after one step; nothing when the step does not end in a next state. -/
def answered (strict : Bool) (w : Request) : List Response :=
  match step (asked strict w) with
  | .next t => t.responses
  | .fault _ => []
  | .refused _ => []

theorem test_addr_101 : answered false 0x0000_0000_0005#48 = [0x0000_0000_0000_000d#64] := by decide

theorem test_addr_010 : answered false 0x0000_0000_0002#48 = [0x0000_0000_0000_000f#64] := by decide

/-- Program P3 step 1: absent ready and mode fields take their defaults. -/
theorem test_enc_fills_defaults : answered false 0x2000_0006_6504#48 = [0x0000_0000_0000_00ff#64] := by
  decide

/-- Program P4 step 1: `ENC ch=5`. -/
theorem test_enc_channel_five : answered false 0x2000_0000_4005#48 = [0x4000_0000_0000_0000#64] := by
  decide

/-- Program P2 step 4. -/
theorem test_dec_0x90 : answered false 0x4000_0000_0090#48 = [0x0000_0000_0007_d839#64] := by decide

theorem test_bcnt_18 : answered false 0x6000_0000_0012#48 = [0x0000_0000_0000_0004#64] := by decide

/-- Program P4 step 4. -/
theorem test_bcnt_17 : answered false 0x6000_0000_0011#48 = [0x4000_0000_0000_0000#64] := by decide

/-- Source example S5: the sign rule is negation. -/
theorem test_xtr_negates : answered false 0x8062_8fff_0000#48 = [0x0000_0000_0007_f001#64] := by decide

/-- The most negative code, 18-bit. -/
theorem test_xtr_18_lowest : answered false 0x8094_03ff_ff9c#48 = [0x0000_0000_0004_0001#64] := by
  decide

theorem test_volt_18_x8_minus_one :
    answered false 0xa000_0947_ffff#48 = [0x0000_003f_ffff_fc18#64] := by decide

theorem test_volt_12_x1_lowest :
    answered false 0xa000_060c_0000#48 = [0x0000_0020_c000_0000#64] := by decide

/-- Program P3 step 8. -/
theorem test_proc_18_bit : answered false 0xc004_0300_007f#48 = [0x01f9_453f_f448_0000#64] := by
  decide

/-- Program P4 steps 5 and 6: the short buffer under both settings. -/
theorem test_proc_short :
    answered true 0xc001_1200_0000#48 = [0x8000_0000_0000_0000#64] ∧
    answered false 0xc001_1200_0000#48 = [0x01f6_2440_03e8_0000#64] := by decide

theorem test_reserved : answered false 0xe000_0000_0000#48 = [0xc000_0000_0000_0000#64] := by decide

/-- A must-be-zero bit of ENC (section 2.2 of the vectors). -/
theorem test_illegal_word : answered false 0x2000_0008_0000#48 = [0xc000_0000_0000_0000#64] := by
  decide

/-! ### The written requests (rules R47, R48) and the host's sequence (rule R84, program P1) -/

theorem test_assemble_enc :
    (assemble (.enc (some 1) (some true) (some .oneShot) (some 1) (some 16))).map encode
      = some 0x2000_0007_e029#48 := by decide

theorem test_text_proc : AsmLine.text (.proc [0x03#8, 0x91#8, 0x98#8]) = "PROC [0x03, 0x91, 0x98]" := by
  decide

/-- Program P1's parameters: channel 1, ready, one-shot, x1, 16-bit. -/
def p1Params : ParamsWord :=
  { pRes := true, pGain := true, pMode := true, pRdy := true, pCh := true,
    res := 16#5, gain := 1#4, mode := false, rdy := true, ch := 1#3 }

/-- A collaborator that accepts every write. -/
def acceptingWrite : Byte → List Byte → Except String Unit := fun _ _ => .ok ()

/-- A collaborator that returns program P1's three bytes. -/
def p1Read : Byte → Nat → Except String (List Byte) := fun _ _ => .ok [0x03#8, 0x91#8, 0x08#8]

theorem test_host_configures :
    configureConverter Config.thisHardware acceptingWrite false true false p1Params
      = .ok { address := 0x0f#8, cfg := 0x88#8 } := by rfl

theorem test_host_reads :
    takeReading Config.thisHardware p1Read 0x0f#8 16#5 = .ok 0x01f8_0840_01bd_cd00#64 := by rfl

/-- Program P3's parameters: channel 4, x8, 18-bit, ready and mode left out. -/
def p3Params : ParamsWord :=
  { pRes := true, pGain := true, pMode := false, pRdy := false, pCh := true,
    res := 18#5, gain := 8#4, mode := false, rdy := false, ch := 4#3 }

/-- Program P3's bus: the first read still reports 12 bits, every later one 18; no write fails. -/
def p3Bus : Bus String :=
  { write := fun _ _ _ => .ok (),
    read := fun past _ _ =>
      .ok (if past.length = 2 then [0x01#8, 0x00#8, 0x90#8, 0x90#8]
        else [0x03#8, 0x00#8, 0x00#8, 0x7f#8]) }

/-- Program P3: two readings of four bytes each. -/
theorem test_host_session :
    runSession Config.thisHardware p3Bus false false false p3Params 2 []
      = { actions := [.select 0x0d#8, .write 0x0d#8 [0xff#8], .read 0x0d#8 4, .read 0x0d#8 4],
          readings := [0x01f6_0e40_07d0_0000#64, 0x01f9_453f_f448_0000#64], stop := none } := by rfl

/-- With no resolution named the host asks for 12 bits, three bytes (rule R53). -/
theorem test_host_session_default_resolution :
    (runSession Config.thisHardware p3Bus false true false
      { p3Params with pRes := false } 1 []).actions
      = [.select 0x0f#8, .write 0x0f#8 [0xf3#8], .read 0x0f#8 3] := by rfl

/-! ### Witnesses: the hypotheses of each statement, met together -/

/-- A machine with nothing on its ports. -/
def quiet (strict : Bool) : State := { config := { strictLen := strict }, requests := [], responses := [] }

/-- A `PARAMS` word with no field present. -/
def noField : ParamsWord :=
  { pRes := false, pGain := false, pMode := false, pRdy := false, pCh := false,
    res := 31#5, gain := 15#4, mode := false, rdy := false, ch := 7#3 }

/-- A full `PARAMS` word at the upper end of every enumeration. -/
def topField : ParamsWord :=
  { pRes := true, pGain := true, pMode := true, pRdy := true, pCh := true,
    res := 18#5, gain := 8#4, mode := true, rdy := true, ch := 4#3 }

/-- The bytes of a two-data-byte frame reporting 16 bits. -/
def threeBytes : Buffer := { len := 3#3, b0 := 0x03#8, b1 := 0x91#8, b2 := 0x98#8, b3 := 0x00#8 }

/-- Three bytes whose last one reports 18 bits: one byte short. -/
def oneShort : Buffer := { len := 3#3, b0 := 0x01#8, b1 := 0x23#8, b2 := 0x9c#8, b3 := 0x00#8 }

/-- No byte at all. -/
def empty : Buffer := { len := 0#3, b0 := 0xff#8, b1 := 0xff#8, b2 := 0xff#8, b3 := 0xff#8 }

/-- Four bytes whose last one reports 12 bits. -/
def longTwelve : Buffer := { len := 4#3, b0 := 0x01#8, b1 := 0x00#8, b2 := 0x90#8, b3 := 0x90#8 }

theorem witness_enc_clause_1 :
    ((4 : Nat), (0x60 : Nat)) ∈ [((1 : Nat), (0x00 : Nat)), (2, 0x20), (3, 0x40), (4, 0x60)] ∧
    (4 : Nat) = (if topField.pCh then topField.ch.toNat else 1) ∧
    (8 : Nat) = (if topField.pGain then topField.gain.toNat else 1) ∧
    ((8 : Nat), (0x03 : Nat)) ∈ [((1 : Nat), (0x00 : Nat)), (2, 0x01), (4, 0x02), (8, 0x03)] ∧
    (18 : Nat) = (if topField.pRes then topField.res.toNat else 12) ∧
    ((18 : Nat), (0x0c : Nat)) ∈ [((12 : Nat), (0x00 : Nat)), (14, 0x04), (16, 0x08), (18, 0x0c)] := by
  decide

theorem witness_enc_clause_2 :
    encInvalid { topField with ch := 5#3 } ∧ encInvalid { topField with gain := 0#4 } ∧
    encInvalid { topField with res := 19#5 } := by decide

theorem witness_enc_no_field :
    noField.pCh = false ∧ noField.pRdy = false ∧ noField.pMode = false ∧ noField.pGain = false ∧
    noField.pRes = false := by decide

/-- Two different operands that agree on every present field. -/
theorem witness_enc_ignores_absent :
    noField ≠ { noField with ch := 0#3, res := 0#5 } ∧
    noField.pCh = { noField with ch := 0#3, res := 0#5 }.pCh ∧
    (noField.pCh = true → noField.ch = 0#3) ∧ (noField.pRes = true → noField.res = 0#5) := by decide

theorem witness_enc_dec_inverse :
    topField.pCh = true ∧ topField.pRdy = true ∧ topField.pMode = true ∧ topField.pGain = true ∧
    topField.pRes = true ∧ ¬ encInvalid topField := by decide

/-- XTR: a full frame without and under `STRICT_LEN`, a frame short by one, an illegal resolution. -/
theorem witness_xtr :
    ((18#5).toNat ∈ [12, 14, 16, 18] ∧ (quiet true).config.strictLen = true ∧
      frameLength (18#5).toNat ≤ fourBytes.len.toNat) ∧
    ((12#5).toNat ∈ [12, 14, 16, 18] ∧ (quiet false).config.strictLen = false) ∧
    ((18#5).toNat ∈ [12, 14, 16, 18] ∧ oneShort.len.toNat < frameLength (18#5).toNat) ∧
    (13#5).toNat ∉ [12, 14, 16, 18] := by decide

/-- Two buffers that XTR answers alike at 12 bits. -/
theorem witness_xtr_injectivity :
    (12#5).toNat ∈ [12, 14, 16, 18] ∧ (quiet false).config.strictLen = false ∧
    Answers (.xtr 12#5 threeBytes) (quiet false) 0x391#64 ∧
    Answers (.xtr 12#5 { threeBytes with b2 := 0x90#8 }) (quiet false) 0x391#64 := by
  refine ⟨by decide, rfl, rfl, rfl⟩

/-- At 18 bits the two low bits of `b[0]` are kept, at 12 bits the four low ones. -/
theorem witness_xtr_bits_above_mask :
    ((18#5).toNat ∈ [12, 14, 16, 18] ∧
      (0xff#8).toNat % 2 ^ keptBits (18#5).toNat = fourBytes.b0.toNat % 2 ^ keptBits (18#5).toNat) ∧
    (0xf3#8).toNat % 2 ^ keptBits (12#5).toNat = fourBytes.b0.toNat % 2 ^ keptBits (12#5).toNat := by
  decide

theorem witness_lanes_beyond_length :
    threeBytes ≠ { threeBytes with b3 := 0x55#8 } ∧
    threeBytes.len = { threeBytes with b3 := 0x55#8 }.len ∧
    bufferBytes threeBytes = bufferBytes { threeBytes with b3 := 0x55#8 } := by decide

theorem witness_volt_clause_1 :
    ((18#5).toNat, (125 / 8 : Rat)) ∈ [(12, (1000 : Rat)), (14, 250), (16, 125 / 2), (18, 125 / 8)] ∧
    (8 : Nat) = (8#4).toNat ∧ (8 : Nat) ∈ [1, 2, 4, 8] := by simp

theorem witness_volt_clause_2 :
    (13#5).toNat ∉ [12, 14, 16, 18] ∧ (0#4).toNat ∉ [1, 2, 4, 8] := by decide

/-- The rounding that changes nothing leaves every representable value alone, and both ends of the code
range are codes. -/
theorem witness_floating_point :
    (∀ q, IsBinary64 q → (id : Rat → Rat) q = q) ∧ -(2 ^ 18 : Int) ≤ 2 ^ 18 ∧ (2 ^ 18 : Int) ≤ 2 ^ 18 :=
  ⟨fun _ _ => rfl, by decide, by decide⟩

/-- PROC under `STRICT_LEN`: a full frame, the empty buffer and a buffer one byte short. -/
theorem witness_proc :
    (threeBytes.len.toNat ≤ 4 ∧ (quiet true).config.strictLen = true ∧ ¬ procShort threeBytes) ∧
    (empty.len.toNat ≤ 4 ∧ procShort empty) ∧ (oneShort.len.toNat ≤ 4 ∧ procShort oneShort) ∧
    (oneShort.len.toNat ≤ 4 ∧ (quiet false).config.strictLen = false) := by decide

/-- A short buffer answered under `STRICT_LEN = false`. -/
theorem witness_zero_fill :
    (quiet false).config.strictLen = false ∧
    Answers (.xtr 18#5 oneShort) (quiet false) 0x1239c#64 := ⟨rfl, rfl⟩

theorem witness_strict_length :
    longTwelve.len.toNat ≤ 4 ∧ (quiet true).config.strictLen = true ∧ ¬ procShort longTwelve ∧
    procShort oneShort ∧ oneShort.len.toNat < frameLength (18#5).toNat ∧
    frameLength (12#5).toNat ≤ oneShort.len.toNat := by decide

theorem witness_ready_flag :
    (threeBytes.len.toNat = 3 ∧ resolutionIn threeBytes.b2 ≠ 18) ∧ fourBytes.len.toNat = 4 := by decide

theorem witness_proc_ignores_middle :
    longTwelve.len.toNat = 4 ∧ resolutionIn longTwelve.b3 ≠ 18 := by decide

/-- Each error status has a well-formed instruction that causes it, and some have none. -/
theorem witness_status_causes :
    (Instr.xtr 13#5 threeBytes).wellFormed = true ∧ InvalidParameterCause (.xtr 13#5 threeBytes) ∧
    (Instr.proc empty).wellFormed = true ∧ InvalidBufferLengthCause (.proc empty) ∧
    (Instr.reservedOp7 0#45).wellFormed = true ∧ IsReserved (.reservedOp7 0#45) ∧
    ¬ InvalidParameterCause (.addr true true true) :=
  ⟨rfl, show (13#5).toNat ∉ [12, 14, 16, 18] by decide, rfl, show procShort empty by decide, rfl,
    trivial, fun h => h⟩

/-- A typed operand of BCNT and its answer. -/
theorem witness_typed_operand :
    Instr.bcnt (Resolution.field .r18) ∈ [Instr.enc (ParamsWord.ofParameters .default),
      .bcnt (Resolution.field .r18), .xtr (Resolution.field .r18) fourBytes,
      .volt (Resolution.field .r18) (Gain.field .x1) 0#19] ∧
    Answers (.bcnt (Resolution.field .r18)) (quiet false) 4#64 := ⟨by decide, rfl⟩

theorem witness_operation_frame :
    exec (.addr false false false) (quiet false)
      = .next { quiet false with responses := [0x0d#64] } := rfl

/-- One illegal word for each cause of rule R45, and a word with none. -/
theorem witness_illegal_words :
    (asked false 0x8085_0000_0000#48).requests = [0x8085_0000_0000#48] ∧
    IllegalWord 0xe000_0000_0000#48 ∧ IllegalWord 0x0000_0000_0008#48 ∧
    IllegalWord 0x8085_0000_0000#48 ∧ ¬ IllegalWord 0x8094_0300_007f#48 := by decide

/-- `XTR 13, [0x01]` (rule R76), the same with `LEN = 5`, and `XTR 12, [0x01]`. -/
theorem witness_error_priority :
    (¬ IllegalWord 0x8069_0100_0000#48 ∧ opOf 0x8069_0100_0000#48 = 4 ∧
      xtrResOf 0x8069_0100_0000#48 ∉ [12, 14, 16, 18]) ∧
    IllegalWord 0x806d_0100_0000#48 ∧
    (¬ IllegalWord 0x8061_0100_0000#48 ∧ opOf 0x8061_0100_0000#48 = 4 ∧
      xtrResOf 0x8061_0100_0000#48 ∈ [12, 14, 16, 18] ∧
      (asked true 0x8061_0100_0000#48).config.strictLen = true ∧
      lenOf 0x8061_0100_0000#48 < frameLength (xtrResOf 0x8061_0100_0000#48)) := by decide

theorem witness_round_trips :
    (Instr.xtr 31#5 fourBytes).wellFormed = true ∧
    decode 0xffff_ffff_ffff#48 = .ok (.reservedOp7 0x1fff_ffff_ffff#45) := by decide

/-- The hypotheses about the next request: it is there, and it decodes. -/
theorem witness_next_request :
    (asked false 0x6000_0000_0012#48).requests = 0x6000_0000_0012#48 :: [] ∧
    decode 0x6000_0000_0012#48 = .ok (.bcnt 18#5) ∧
    (asked false 0x6000_0000_0012#48).config = Config.thisHardware := by decide

theorem witness_no_request : (quiet true).requests = [] := rfl

/-- Two different orders of the same two requests. -/
theorem witness_reordered :
    [0x6000_0000_0012#48, 0xe000_0000_0000#48].Perm [0xe000_0000_0000#48, 0x6000_0000_0012#48] := by
  decide

/-- A state with a response on its port and a request waiting, that keeps the invariant and steps. -/
theorem witness_invariant :
    State.Inv { asked true 0xe000_0000_0000#48 with responses := [0x8000_0000_0000_0000#64] } ∧
    step { asked true 0xe000_0000_0000#48 with responses := [0x8000_0000_0000_0000#64] }
      = .next { quiet true with
          responses := [0x8000_0000_0000_0000#64, 0xc000_0000_0000_0000#64] } :=
  ⟨List.forall_mem_singleton.mpr (by decide), rfl⟩

/-- A write and a read that fail, each at the transaction the sequence makes. -/
theorem witness_io_error :
    Answers (.enc p1Params) (quiet false) 0x88#64 ∧ statusField 0x88#64 = 0b00#2 ∧
    (fun _ _ => .error "nack" : Byte → List Byte → Except String Unit)
      (if true then 0x0f#8 else 0x0d#8) [(0x88#64).extractLsb' 0 8] = .error "nack" ∧
    (18#5).toNat ∈ [12, 14, 16, 18] ∧
    (fun _ _ => .error "nack" : Byte → Nat → Except String (List Byte)) 0x0f#8
      (frameLength (18#5).toNat) = .error "nack" :=
  ⟨rfl, by decide, rfl, by decide, rfl⟩

/-- A parameter set that is written and one the unit refuses. -/
theorem witness_host_writes :
    (Answers (.enc p1Params) (quiet false) 0x88#64 ∧ statusField 0x88#64 = 0b00#2 ∧
      acceptingWrite (if true then 0x0f#8 else 0x0d#8) [(0x88#64).extractLsb' 0 8] = .ok ()) ∧
    (Answers (.enc { p1Params with ch := 0#3 }) (quiet false) invalidParameterWord ∧
      statusField invalidParameterWord ≠ 0b00#2) :=
  ⟨⟨rfl, by decide, rfl⟩, rfl, by decide⟩

theorem witness_host_reading :
    (16#5).toNat ∈ [12, 14, 16, 18] ∧
    p1Read 0x0f#8 (frameLength (16#5).toNat) = .ok [0x03#8, 0x91#8, 0x08#8] ∧
    Buffer.ofBytes? [0x03#8, 0x91#8, 0x08#8] = some { threeBytes with b2 := 0x08#8 } ∧
    Answers (.proc { threeBytes with b2 := 0x08#8 }) (quiet false) 0x01f8_0840_01bd_cd00#64 ∧
    statusField 0x01f8_0840_01bd_cd00#64 = 0b00#2 :=
  ⟨by decide, rfl, rfl, rfl, by decide⟩

/-- Program P3: 18 bits asked for, 12 reported; then 18 reported. -/
theorem witness_mismatch :
    longTwelve.len.toNat ≤ 4 ∧ (quiet false).config.strictLen = false ∧
    Answers (.proc longTwelve) (quiet false) 0x01f6_0e40_07d0_0000#64 ∧
    Answers (.proc fourBytes) (quiet false) 0x01f9_453f_f448_0000#64 :=
  ⟨by decide, rfl, rfl, rfl⟩

/-- Program P3's bus with a read that fails after the first one. -/
def p3BusFails : Bus String :=
  { p3Bus with read := fun past a n => if past.length = 2 then p3Bus.read past a n else .error "nack" }

/-- A session: the write accepted, one reading taken, the second read failing; and a write refused. -/
theorem witness_session :
    Answers (.enc p3Params) (quiet false) 0xff#64 ∧ statusField 0xff#64 = 0b00#2 ∧
    (4 : Nat) = frameLength (if p3Params.pRes then p3Params.res.toNat else 12) ∧
    p3BusFails.write [.select 0x0d#8] 0x0d#8 [(0xff#64).extractLsb' 0 8] = .ok () ∧
    (∀ j < 1,
      p3BusFails.read ([] ++ [.select 0x0d#8, .write 0x0d#8 [(0xff#64).extractLsb' 0 8]]
        ++ List.replicate j (.read 0x0d#8 4)) 0x0d#8 4 = .ok [0x01#8, 0x00#8, 0x90#8, 0x90#8] ∧
      Buffer.ofBytes? [0x01#8, 0x00#8, 0x90#8, 0x90#8] = some longTwelve ∧
      Answers (.proc longTwelve) (quiet false) 0x01f6_0e40_07d0_0000#64 ∧
      statusField 0x01f6_0e40_07d0_0000#64 = 0b00#2) ∧
    p3BusFails.read ([] ++ [.select 0x0d#8, .write 0x0d#8 [(0xff#64).extractLsb' 0 8]]
      ++ List.replicate 1 (.read 0x0d#8 4)) 0x0d#8 4 = .error "nack" ∧
    ({ p3Bus with write := fun _ _ _ => .error "nack" } : Bus String).write [.select 0x0d#8] 0x0d#8
      [(0xff#64).extractLsb' 0 8] = .error "nack" := by
  refine ⟨rfl, by decide, by decide, rfl, ?_, rfl, rfl⟩
  intro j h
  obtain rfl : j = 0 := by omega
  exact ⟨rfl, rfl, rfl, by decide⟩

/-- The ends of every field's range, and the first number beyond it. -/
theorem witness_assembled_ranges :
    (FitsField 3 (some 7) ∧ FitsField 4 none ∧ FitsField 5 (some 31)) ∧ ¬ FitsField 4 (some 16) ∧
    ((31 : Nat) < 32 ∧ (15 : Nat) < 16 ∧ -(2 ^ 18 : Int) ≤ -262144 ∧ (262143 : Int) < 2 ^ 18) ∧
    (2 ^ 18 : Int) ≤ 262144 ∧ [1#8, 2#8, 3#8, 4#8].length ≤ 4 ∧
    4 < [1#8, 2#8, 3#8, 4#8, 5#8].length := by decide

/-- The buffer that lists the one byte 1. -/
def oneByte : Buffer := { len := 1#3, b0 := 0x01#8, b1 := 0x00#8, b2 := 0x00#8, b3 := 0x00#8 }

theorem witness_assembled :
    assemble (.volt 16 1 913) = some (.volt 16#5 1#4 913#19) ∧
    assemble (.xtr 31 [0x01#8]) = some (.xtr 31#5 oneByte) := by decide

end Sys2Proof.Tests
end

section
/-! The scope statements: the state after reset, and the index helpers as fields of the configuration
byte.  The facts behind them (the index helpers' inverses, what `Answers` asks of a response,
`encodeParameters` after `decodeConfig`, the responses of DEC and ENC) come first. -/

namespace Sys2Proof

theorem Resolution.bits_eq_index (r : Resolution) : r.bits = 12 + 2 * r.index := by
  cases r <;> rfl

theorem Channel.toNat_field (c : Channel) : c.field.toNat = 1 + c.index := by
  cases c <;> rfl

end Sys2Proof

namespace Sys2Proof.Machine

open Sys2Proof.Statements

/-- By the law `exec_eq`, an answer is the response of the instruction's evaluation. -/
theorem answers_of_responseOf {i : Instr} {s : State} {r : Response}
    (h : responseOf (evalInstr s.config i) = r) : Answers i s r := by
  subst h
  exact exec_eq i s

/-- A payload that is a zero-extended value: with status `OK` the whole response is (rule R42). -/
theorem okResponse_of_payloadOf {n : Nat} {r : Result} {a : BitVec n} (hn : n ≤ 62)
    (h : payloadOf r = a.setWidth 62) : okResponse r = a.setWidth 64 := by
  unfold okResponse
  rw [h]
  exact zeros_append_setWidth a hn

/-! ### The state after reset -/

@[simp] theorem State.reset_strictLen : State.reset.config.strictLen = false := rfl

@[simp] theorem State.reset_requests : State.reset.requests = [] := rfl

@[simp] theorem State.reset_responses : State.reset.responses = [] := rfl

/-! ### The configuration byte, field by field

Each flag of a decoded byte is the byte under the field's mask; the masks make up the byte. -/

/-- Two bits of a byte, kept in place. -/
theorem and_twoPow_or_twoPow (b : Byte) (i j : Nat) :
    b &&& (BitVec.twoPow 8 i ||| BitVec.twoPow 8 j) =
      (if b.getLsbD i then BitVec.twoPow 8 i else 0#8) |||
        (if b.getLsbD j then BitVec.twoPow 8 j else 0#8) := by
  rw [BitVec.and_or_distrib_left, BitVec.and_twoPow, BitVec.and_twoPow]

theorem channelFlag_decodeConfig (b : Byte) :
    channelFlag (decodeConfig b).channel = b &&& 0x60#8 := by
  refine Eq.trans ?_ (and_twoPow_or_twoPow b 6 5).symm
  unfold decodeConfig
  cases b.getLsbD 6 <;> cases b.getLsbD 5 <;> rfl

theorem readyFlag_decodeConfig (b : Byte) :
    readyFlag (decodeConfig b).readyOrConverting = b &&& 0x80#8 := by
  refine Eq.trans ?_ (BitVec.and_twoPow b 7).symm
  unfold decodeConfig
  cases b.getLsbD 7 <;> rfl

theorem modeFlag_decodeConfig (b : Byte) : modeFlag (decodeConfig b).mode = b &&& 0x10#8 := by
  refine Eq.trans ?_ (BitVec.and_twoPow b 4).symm
  unfold decodeConfig
  cases b.getLsbD 4 <;> rfl

theorem gainFlag_decodeConfig (b : Byte) : gainFlag (decodeConfig b).gain = b &&& 0x03#8 := by
  refine Eq.trans ?_ (and_twoPow_or_twoPow b 1 0).symm
  unfold decodeConfig
  cases b.getLsbD 1 <;> cases b.getLsbD 0 <;> rfl

theorem resolutionFlag_decodeConfig (b : Byte) :
    resolutionFlag (decodeConfig b).resolution = b &&& 0x0c#8 := by
  refine Eq.trans ?_ (and_twoPow_or_twoPow b 3 2).symm
  unfold decodeConfig
  cases b.getLsbD 3 <;> cases b.getLsbD 2 <;> rfl

/-- Rule R56 on typed parameters: the five masks together are the whole byte. -/
@[simp] theorem encodeParameters_decodeConfig (b : Byte) :
    encodeParameters (decodeConfig b) = b := by
  rw [encodeParameters, channelFlag_decodeConfig, readyFlag_decodeConfig, modeFlag_decodeConfig,
    gainFlag_decodeConfig, resolutionFlag_decodeConfig]
  calc b &&& 0x60#8 ||| b &&& 0x80#8 ||| b &&& 0x10#8 ||| b &&& 0x03#8 ||| b &&& 0x0c#8
    _ = b &&& (0x60#8 ||| 0x80#8 ||| 0x10#8 ||| 0x03#8 ||| 0x0c#8) := by
      simp only [BitVec.and_or_distrib_left]
    _ = b := BitVec.and_allOnes

/-! ### The index helpers of rule R8 -/

/-- A 2-bit field of a byte as a number, from its two bits (rule R5). -/
theorem two_bit_field (b : Byte) (k : Nat) :
    b.toNat / 2 ^ k % 4 = 2 * (b.getLsbD (k + 1)).toNat + (b.getLsbD k).toNat := by
  rw [BitVec.getLsbD, BitVec.getLsbD, Nat.toNat_testBit, Nat.toNat_testBit, pow_succ,
    ← Nat.div_div_eq_div_mul]
  omega

theorem index_channelOfBits (hi lo : Bool) :
    (channelOfBits hi lo).index = 2 * hi.toNat + lo.toNat := by
  cases hi <;> cases lo <;> rfl

theorem index_gainOfBits (hi lo : Bool) : (gainOfBits hi lo).index = 2 * hi.toNat + lo.toNat := by
  cases hi <;> cases lo <;> rfl

theorem index_resolutionOfBits (hi lo : Bool) :
    (resolutionOfBits hi lo).index = 2 * hi.toNat + lo.toNat := by
  cases hi <;> cases lo <;> rfl

/-- `c` is bits 6:5 of the configuration byte (rule R13). -/
theorem index_channel_decodeConfig (b : Byte) :
    (decodeConfig b).channel.index = b.toNat / 32 % 4 :=
  (index_channelOfBits _ _).trans (two_bit_field b 5).symm

/-- `g` is bits 1:0 of the configuration byte (rule R13). -/
theorem index_gain_decodeConfig (b : Byte) : (decodeConfig b).gain.index = b.toNat % 4 := by
  have hfield := two_bit_field b 0
  rw [pow_zero, Nat.div_one] at hfield
  exact (index_gainOfBits _ _).trans hfield.symm

/-- `k` is bits 3:2 of the configuration byte (rule R13). -/
theorem index_resolution_decodeConfig (b : Byte) :
    (decodeConfig b).resolution.index = b.toNat / 4 % 4 :=
  (index_resolutionOfBits _ _).trans (two_bit_field b 2).symm

theorem gainDivisor_eq_two_pow_index (g : Gain) : gainDivisor g = 2 ^ g.index := by
  cases g <;> rfl

/-! ### The responses of DEC and ENC -/

/-- DEC answers the full `PARAMS` word of the byte's parameters (rules R44, R55). -/
theorem answers_dec (b : Byte) (s : State) :
    Answers (.dec b) s ((ParamsWord.ofParameters (decodeConfig b)).toBits.setWidth 64) :=
  answers_of_responseOf (okResponse_of_payloadOf (by decide) rfl)

/-- The evaluation of ENC on a full record of parameters is their byte (rule R54). -/
@[simp] theorem evalEnc_ofParameters (p : Parameters) :
    evalEnc (ParamsWord.ofParameters p) = .ok (.configByte (encodeParameters p)) := by
  simp only [evalEnc, ParamsWord.fill_ofParameters]

/-- ENC of a full record of parameters answers their byte (rules R44, R54). -/
theorem answers_enc_ofParameters (p : Parameters) (s : State) :
    Answers (.enc (ParamsWord.ofParameters p)) s ((encodeParameters p).setWidth 64) := by
  apply answers_of_responseOf
  rw [evalInstr, evalEnc_ofParameters]
  exact okResponse_of_payloadOf (by decide) rfl

/-! ### The statements -/

/-- Settles O1: the fields of the state after reset. -/
theorem resetLeavesZeroFillAndEmptyPorts : Obligations.ResetLeavesZeroFillAndEmptyPorts :=
  ⟨State.reset_strictLen, State.reset_requests, State.reset_responses⟩

/-- Settles O8: the parameters of a byte are those DEC decodes, and encoding them gives the byte back. -/
theorem indexHelpersAreConfigurationFields : Obligations.IndexHelpersAreConfigurationFields := by
  refine ⟨Resolution.bits_eq_index, gainDivisor_eq_two_pow_index, Channel.toNat_field, ?_⟩
  intro b s
  have henc := answers_enc_ofParameters (decodeConfig b) s
  rw [encodeParameters_decodeConfig] at henc
  exact ⟨decodeConfig b, index_resolution_decodeConfig b, index_gain_decodeConfig b,
    index_channel_decodeConfig b, answers_dec b s, henc⟩

end Sys2Proof.Machine
end

section
/-! The state statements: what an operation and a step leave unchanged, and what a run of steps answers.
Each rests on the laws `exec_eq`, `serve_eq`, `step_nil` and `step_cons`. -/

namespace Sys2Proof.Machine

open Sys2Proof.Statements

/-! ### A step and a run, by the requests that wait -/

/-- A word that decodes is served by running its instruction. -/
theorem serve_of_decode {w : Request} {i : Instr} (h : decode w = .ok i) (s : State) :
    serve w s = exec i s := by
  simp only [serve, h]

/-- A step with a request presented answers it with its evaluation (rule R9). -/
theorem step_eq_next_eval {s : State} {w : Request} {rest : List Request}
    (h : s.requests = w :: rest) :
    step s = .next { s with requests := rest, responses := s.responses ++ [eval s.config w] } :=
  (step_cons h).trans (serve_eq w _)

/-- A run goes on from the state its first step gives. -/
theorem run_succ_of_step {s t : State} (h : step s = .next t) (k : Nat) :
    Host.Core.run core (k + 1) s = Host.Core.run core k t := by
  have hstep : core.step s = .next t := h
  simp only [Host.Core.run, hstep]

/-- The run behind O36, with the state written out by fields so that the induction can follow the list
of requests while the responses grow. -/
theorem run_answers_requests (c : Config) (ws : List Request) (rs : List Response) :
    Host.Core.run core ws.length { config := c, requests := ws, responses := rs }
      = .next { config := c, requests := [], responses := rs ++ ws.map (eval c) } := by
  induction ws generalizing rs with
  | nil => rw [List.map_nil, List.append_nil]; rfl
  | cons w rest ih =>
    rw [List.length_cons, run_succ_of_step (step_eq_next_eval rfl), ih, List.map_cons,
      List.append_assoc, List.singleton_append]

/-! ### The statements -/

/-- Settles O25: by `exec_eq` the next state is the old one with one response pushed. -/
theorem operationsChangeOnlyTheResponsePort : Obligations.OperationsChangeOnlyTheResponsePort := by
  intro i s t h
  obtain rfl := Host.Outcome.next.inj ((exec_eq i s).symm.trans h)
  exact ⟨pushResponse_config _ s, pushResponse_requests _ s, _, pushResponse_responses _ s⟩

/-- Settles O34: a step serves the head of the request list, and serving is evaluation. -/
theorem stepRefinesPureEvaluation : Obligations.StepRefinesPureEvaluation :=
  fun _ _ _ h => step_eq_next_eval h

/-- Settles O36, by induction on the waiting requests. -/
theorem runAnswersEveryRequest : Obligations.RunAnswersEveryRequest :=
  fun s => run_answers_requests s.config s.requests s.responses

/-- Settles O39: idle with no request, and one request exchanged for one response otherwise. -/
theorem everyStateSteps : Obligations.EveryStateSteps := by
  intro s
  cases hr : s.requests with
  | nil => exact ⟨s, step_nil hr, by rw [hr], hr, List.prefix_rfl⟩
  | cons w rest =>
    refine ⟨_, step_eq_next_eval hr, ?_, rfl, List.prefix_append _ _⟩
    simp only [List.length_append, List.length_cons, List.length_nil]
    omega

/-- Settles O31: serving a word that decodes runs its instruction. -/
theorem stepRunsTheDecodedRequest : Obligations.StepRunsTheDecodedRequest :=
  fun _ _ _ _ hr hd => (step_cons hr).trans (serve_of_decode hd _)

end Sys2Proof.Machine
end

section
/-! The buffer statements: what XTR and PROC read of a buffer (`20_memory.md` rules R19, R22), when a
length check refuses it (rule R30), and that a response depends on its request and the length policy
only (rule R27). -/

namespace Sys2Proof

/-! ### A resolution and its `RES` field -/

theorem Resolution.toNat_of_ofField? {f : BitVec 5} {r : Resolution}
    (h : Resolution.ofField? f = some r) : f.toNat = r.bits := by
  rw [← Resolution.field_of_ofField? f r h]
  cases r <;> rfl

/-- The legal `RES` values are the fields of the four resolutions (rule R41). -/
theorem Resolution.exists_of_legal {f : BitVec 5} (h : f.toNat ∈ [12, 14, 16, 18]) :
    ∃ r, Resolution.ofField? f = some r := by
  unfold Resolution.ofField?
  simp only [List.mem_cons, List.not_mem_nil, or_false] at h
  obtain h | h | h | h := h <;> rw [h] <;> exact ⟨_, rfl⟩

end Sys2Proof

namespace Sys2Proof.Machine

open Sys2Proof.Statements

theorem frameLength_bits (r : Resolution) : frameLength r.bits = byteCount r := by
  cases r <;> rfl

/-- Rule R13: the resolution DEC reads, as the plain number of the statements. -/
theorem resolutionIn_eq_bits (b : Byte) :
    resolutionIn b = (decodeConfig b).resolution.bits := by
  rw [Resolution.bits_eq_index, index_resolution_decodeConfig]
  unfold resolutionIn bitOf
  omega

/-! ### The buffer's bytes -/

/-- The read primitive reads the buffer's bytes and nothing else (rule R19). -/
theorem read_eq_getD_bufferBytes (b : Buffer) (i : Nat) :
    b.read i = (bufferBytes b).getD i 0#8 := by
  rw [bufferBytes, List.getD_eq_getElem?_getD, List.getElem?_take]
  by_cases h : i < b.len.toNat
  · rw [Buffer.read_of_lt h, if_pos h]
    match i with
    | 0 | 1 | 2 | 3 | _ + 4 => rfl
  · rw [Buffer.read_of_ge (Nat.le_of_not_lt h), if_neg h, Option.getD_none]

theorem read_congr {b c : Buffer} (h : bufferBytes b = bufferBytes c) (i : Nat) :
    b.read i = c.read i := by
  rw [read_eq_getD_bufferBytes, read_eq_getD_bufferBytes, h]

/-- First bytes that agree modulo `n` are read so, also when the buffer is empty. -/
theorem read_zero_mod_congr {b : Buffer} {x : Byte} {n : Nat}
    (h : b.b0.toNat % n = x.toNat % n) :
    (b.read 0).toNat % n = (({ b with b0 := x } : Buffer).read 0).toNat % n := by
  unfold Buffer.read
  split
  · exact h
  · rfl

theorem length_bufferBytes {b : Buffer} (h : b.len.toNat ≤ 4) :
    (bufferBytes b).length = b.len.toNat :=
  List.length_take_of_le h

/-- Within `BUF_CAP` the last byte is the last of the buffer's bytes (rule R69). -/
theorem lastByte_eq_lastOf {b : Buffer} (h : b.len.toNat ≤ 4) : b.lastByte = lastOf b := by
  rw [lastOf, List.getLastD_eq_getLast?, List.getLast?_eq_getElem?, length_bufferBytes h,
    ← List.getD_eq_getElem?_getD, ← read_eq_getD_bufferBytes, Buffer.lastByte]
  split
  · rfl
  · exact (Buffer.read_of_ge (by omega)).symm

/-! ### What the data field depends on -/

/-- The data field depends on the kept bits of `b[0]` and on the two bytes after it (rules R22, R59). -/
theorem dataField_congr {r : Resolution} {b c : Buffer}
    (h0 : (b.read 0).toNat % 2 ^ keptBits r.bits = (c.read 0).toNat % 2 ^ keptBits r.bits)
    (h1 : b.read 1 = c.read 1) (h2 : b.read 2 = c.read 2) : dataField r b = dataField r c := by
  obtain ⟨b12, b14, b16⟩ := dataField_two_bytes b
  obtain ⟨c12, c14, c16⟩ := dataField_two_bytes c
  cases r with
  | r12 => rw [b12, c12, h1, show _ % 2 ^ 4 = _ % 2 ^ 4 from h0]
  | r14 => rw [b14, c14, h1, show _ % 2 ^ 6 = _ % 2 ^ 6 from h0]
  | r16 => rw [b16, c16, h1, show _ % 2 ^ 8 = _ % 2 ^ 8 from h0]
  | r18 =>
    rw [dataField_three_bytes, dataField_three_bytes, h1, h2, show _ % 2 ^ 2 = _ % 2 ^ 2 from h0]

theorem outputCode_congr {r : Resolution} {b c : Buffer} (h : dataField r b = dataField r c) :
    outputCode r b = outputCode r c := by
  unfold outputCode
  rw [h]

theorem outputCode_congr_bufferBytes {b c : Buffer} (h : bufferBytes b = bufferBytes c)
    (r : Resolution) : outputCode r b = outputCode r c :=
  outputCode_congr (dataField_congr (by rw [read_congr h]) (read_congr h 1) (read_congr h 2))

theorem tooShort_congr {b c : Buffer} (h : b.len = c.len) (p : Config) (r : Resolution) :
    tooShort p r b = tooShort p r c := by
  unfold tooShort
  rw [h]

/-- XTR depends on `LEN` and on the code of the resolution asked for (rule R61). -/
theorem evalXtr_congr {res : BitVec 5} {b c : Buffer}
    (hcode : ∀ r, Resolution.ofField? res = some r → outputCode r b = outputCode r c)
    (hlen : b.len = c.len) (p : Config) :
    evalXtr p res b = evalXtr p res c := by
  unfold evalXtr
  cases hr : Resolution.ofField? res with
  | none => rfl
  | some r => simp only [tooShort_congr hlen, hcode r hr]

theorem lastByte_congr {b c : Buffer} (hlen : b.len = c.len) (h : bufferBytes b = bufferBytes c) :
    b.lastByte = c.lastByte := by
  unfold Buffer.lastByte
  rw [hlen, read_congr h]

/-- PROC depends on `LEN` and on the buffer's bytes (rules R39, R69). -/
theorem evalProc_congr {b c : Buffer} (hlen : b.len = c.len) (h : bufferBytes b = bufferBytes c)
    (p : Config) : evalProc p b = evalProc p c := by
  unfold evalProc readingOf
  rw [lastByte_congr hlen h, tooShort_congr hlen, outputCode_congr_bufferBytes h, hlen]

/-! ### The length policy -/

/-- XTR of a legal resolution, with the length check of rule R30 in the statements' numbers. -/
theorem evalXtr_of_legal {res : BitVec 5} (hres : res.toNat ∈ [12, 14, 16, 18]) (buf : Buffer) :
    ∃ code, ∀ c : Config, evalXtr c res buf =
      if c.strictLen = true ∧ buf.len.toNat < frameLength res.toNat
      then .error .invalidBufferLength else .ok (.outputCode code) := by
  obtain ⟨r, hr⟩ := Resolution.exists_of_legal hres
  refine ⟨outputCode r buf, fun c => ?_⟩
  rw [Resolution.toNat_of_ofField? hr, frameLength_bits]
  simp only [evalXtr, hr, tooShort, Bool.and_eq_true, decide_eq_true_eq]

/-- PROC, with the length check of rule R30 in the statements' numbers. -/
theorem evalProc_eq {buf : Buffer} (hlen : buf.len.toNat ≤ 4) (c : Config) :
    evalProc c buf = if c.strictLen = true ∧ procShort buf
      then .error .invalidBufferLength else .ok (.reading (readingOf buf)) := by
  have hres : frameLength (resolutionIn (lastOf buf))
      = byteCount (decodeConfig buf.lastByte).resolution := by
    rw [← lastByte_eq_lastOf hlen, resolutionIn_eq_bits, frameLength_bits]
  simp only [evalProc, tooShort, procShort, hres, Bool.and_eq_true, decide_eq_true_eq, and_or_left,
    ite_or]

/-- The status `InvalidBufferLength` is given for that error only (rule R43). -/
theorem statusField_responseOf_eq_bufferLength_iff {e : Except Fault Result} :
    statusField (responseOf e) = 0b10#2 ↔ e = .error .invalidBufferLength := by
  cases e with
  | ok r => simp [responseOf]
  | error f => cases f <;> simp [responseOf, statusOfFault]

/-- Without `STRICT_LEN` no evaluation ends with `InvalidBufferLength` (rules R30, R74). -/
theorem evalInstr_ne_bufferLength {c : Config} (hc : c.strictLen = false) (i : Instr) :
    evalInstr c i ≠ .error .invalidBufferLength := by
  cases i with
  | addr a0 a1 a2 => nofun
  | enc params =>
    obtain ⟨_, _, _, -, -, -, h⟩ | ⟨-, h⟩ := params.fill_cases <;> simp [evalInstr, evalEnc, h]
  | dec cfg => nofun
  | bcnt res => cases h : Resolution.ofField? res <;> simp [evalInstr, evalBcnt, h]
  | xtr res buf => cases h : Resolution.ofField? res <;> simp [evalInstr, evalXtr, tooShort, h, hc]
  | volt res gain code =>
    cases hr : Resolution.ofField? res <;> cases hg : Gain.ofField? gain <;>
      simp [evalInstr, evalVolt, hr, hg]
  | proc buf => simp [evalInstr, evalProc, tooShort, hc]
  | reservedOp7 ignored => nofun

/-! ### Answers, by the evaluation -/

/-- An operation has one answer: the response of its evaluation. -/
theorem answers_iff {i : Instr} {s : State} {r : Response} :
    Answers i s r ↔ responseOf (evalInstr s.config i) = r := by
  refine ⟨fun h => ?_, answers_of_responseOf⟩
  have hs := Host.Outcome.next.inj ((exec_eq i s).symm.trans h)
  exact List.singleton_inj.mp (List.append_cancel_left (congrArg State.responses hs))

/-- Operations with the same evaluation get the same answer. -/
theorem exists_common_answer {i j : Instr} {s : State}
    (h : evalInstr s.config i = evalInstr s.config j) : ∃ r, Answers i s r ∧ Answers j s r :=
  ⟨_, answers_iff.mpr rfl, answers_iff.mpr (congrArg responseOf h.symm)⟩

/-- Rule R30 for XTR and PROC alike: when `P` is the one condition under which the length check refuses,
`STRICT_LEN` changes the answer exactly where `P` holds. -/
theorem answers_of_length_check {i : Instr} {s : State} {P : Prop} [Decidable P] {result : Result}
    (hs : s.config.strictLen = true)
    (h : ∀ c : Config, evalInstr c i = if c.strictLen = true ∧ P
      then .error .invalidBufferLength else .ok result) :
    (P → Answers i s invalidBufferLengthWord) ∧
    (¬ P → ∃ r, statusField r = 0b00#2 ∧ Answers i s r ∧
      Answers i { s with config := { strictLen := false } } r) := by
  refine ⟨fun hP => ?_, fun hP => ⟨okResponse result, statusField_okResponse result, ?_, ?_⟩⟩
  · rw [answers_iff, h, if_pos ⟨hs, hP⟩]
    rfl
  · rw [answers_iff, h, if_neg (fun hc => hP hc.2)]
    rfl
  · rw [answers_iff, h, if_neg (fun hc => hP hc.2)]
    rfl

/-! ### The statements -/

/-- Settles O12: the data field keeps of `b[0]` only the bits below the mask, and `LEN` is the same. -/
theorem xtrIgnoresBitsAboveMask : Obligations.XtrIgnoresBitsAboveMask := by
  intro res buf x s _ hkept
  have hcode (r : Resolution) (hr : Resolution.ofField? res = some r) :
      outputCode r buf = outputCode r { buf with b0 := x } := by
    rw [Resolution.toNat_of_ofField? hr] at hkept
    exact outputCode_congr (dataField_congr (read_zero_mod_congr hkept.symm) rfl rfl)
  exact exists_common_answer (evalXtr_congr hcode rfl s.config)

/-- Settles O13: XTR and PROC read `LEN` and the buffer's bytes, and nothing else of a buffer. -/
theorem lanesBeyondLengthAreIgnored : Obligations.LanesBeyondLengthAreIgnored := by
  intro b c res s hlen hbytes
  exact ⟨exists_common_answer
      (evalXtr_congr (fun r _ => outputCode_congr_bufferBytes hbytes r) hlen s.config),
    exists_common_answer (evalProc_congr hlen hbytes s.config)⟩

/-- Settles O20: the length check is the only source of `InvalidBufferLength`, and it looks at
`STRICT_LEN` first. -/
theorem strictLengthCheckRefusesShortBuffersOnly :
    Obligations.StrictLengthCheckRefusesShortBuffersOnly := by
  refine ⟨State.reset_strictLen, fun i s r hc hr hstatus => ?_, fun buf s hlen hs => ?_⟩
  · obtain rfl := answers_iff.mp hr
    exact evalInstr_ne_bufferLength hc i (statusField_responseOf_eq_bufferLength_iff.mp hstatus)
  · refine ⟨fun res hres => ?_, answers_of_length_check hs (evalProc_eq hlen)⟩
    obtain ⟨code, heval⟩ := evalXtr_of_legal hres buf
    obtain ⟨hshort, hfull⟩ := answers_of_length_check (i := .xtr res buf) hs heval
    exact ⟨hshort, fun hle => hfull (Nat.not_lt.mpr hle)⟩

/-- Settles O35: both steps answer the head request with its evaluation, which takes the configuration
and the word only. -/
theorem responseDependsOnRequestAndPolicyOnly :
    Obligations.ResponseDependsOnRequestAndPolicyOnly := by
  intro s t w rest more hc hs ht
  refine ⟨eval s.config w, step_eq_next_eval hs, ?_⟩
  rw [hc]
  exact step_eq_next_eval ht

/-- Settles O37: a run pairs each request `w` with `eval c w`, wherever `w` stands in the order. -/
theorem reorderedRequestsGetTheSameResponses : Obligations.ReorderedRequestsGetTheSameResponses := by
  intro c ws vs hperm
  refine ⟨ws.map (eval c), vs.map (eval c), run_answers_requests c ws [],
    run_answers_requests c vs [], ?_⟩
  have hzip (l : List Request) : l.zip (l.map (eval c)) = l.map fun w => (w, eval c w) := by
    rw [← List.zip_map', List.map_id']
  rw [hzip, hzip]
  exact hperm.map _

end Sys2Proof.Machine
end

section
/-! The encoding statements: decoder and encoder are inverse to each other, and what a written request
assembles to (`30_encoding.md` rules R31 to R48).  The operand fields of an encoded word and the word
rebuilt from its fields come first. -/

namespace Sys2Proof

/-- Everything the decoder accepts: the word passes its row's mask, and its operand fields decode. -/
theorem decode_eq_ok_iff {w : Request} {i : Instr} :
    decode w = .ok i ↔
      w &&& (opcodeOf w).maskWord = (opcodeOf w).matchWord ∧
        decodeOperands (opcodeOf w) w = .ok i := by
  unfold decode
  split
  case isTrue h => simp only [h, true_and]
  case isFalse h => simp only [h, false_and, reduceCtorEq]

/-! ### Decoding what is encoded -/

/-- Every encoded instruction passes the mask of its row (rule R45 (b)). -/
theorem encode_matches_row (i : Instr) : Laws.EncodedRow.Statement i := by
  cases i with
  | addr a0 a1 a2 => exact Laws.EncodedRow.addr a0 a1 a2
  | enc params => exact Laws.EncodedRow.enc params
  | dec cfg => exact Laws.EncodedRow.dec cfg
  | bcnt res => exact Laws.EncodedRow.bcnt res
  | xtr res buf => exact Laws.EncodedRow.xtr res buf
  | volt res gain code => exact Laws.EncodedRow.volt res gain code
  | proc buf => exact Laws.EncodedRow.proc buf
  | reservedOp7 ignored => exact Laws.EncodedRow.reservedOp7 ignored

/-- The field just above the last one of a concatenation. -/
theorem field_append_middle {l m n : Nat} (a : BitVec l) (b : BitVec m) (c : BitVec n) :
    (a ++ b ++ c).extractLsb' n m = b := by
  rw [field_append_high _ _ (Nat.le_refl n), Nat.sub_self]
  exact BitVec.extractLsb'_append_eq_right

theorem bufferOf_encode_xtr (res : BitVec 5) (buf : Buffer) :
    bufferOf (encode (.xtr res buf)) = buf :=
  bufferOf_eq fun _ _ h => field_append_low _ (bufferBits buf) h

theorem bufferOf_encode_proc (buf : Buffer) : bufferOf (encode (.proc buf)) = buf :=
  bufferOf_eq fun _ _ h => field_append_low _ (bufferBits buf) h

/-- The operand fields of an encoded instruction are its operands (rules R33 to R39). -/
theorem decodeOperands_encode {i : Instr} (h : i.wellFormed = true) :
    decodeOperands (opcodeOfInstr i) (encode i) = .ok i := by
  cases i with
  | addr a0 a1 a2 => cases a0 <;> cases a1 <;> cases a2 <;> rfl
  | enc params =>
    have hlow : (encode (.enc params)).extractLsb' 0 19 = params.toBits :=
      BitVec.extractLsb'_append_eq_right
    simp only [opcodeOfInstr, decodeOperands, hlow, ParamsWord.ofBits_toBits]
  | dec cfg =>
    have hlow : (encode (.dec cfg)).extractLsb' 0 8 = cfg := BitVec.extractLsb'_append_eq_right
    simp only [opcodeOfInstr, decodeOperands, hlow]
  | bcnt res =>
    have hlow : (encode (.bcnt res)).extractLsb' 0 5 = res := BitVec.extractLsb'_append_eq_right
    simp only [opcodeOfInstr, decodeOperands, hlow]
  | xtr res buf =>
    have hwf : buf.wellFormed = true := h
    have hres : (encode (.xtr res buf)).extractLsb' 35 5 = res := field_append_middle _ _ _
    simp only [opcodeOfInstr, decodeOperands, bufferOf_encode_xtr, hres, hwf, if_true]
  | volt res gain code =>
    have hres : (encode (.volt res gain code)).extractLsb' 23 5 = res :=
      (field_append_high _ code (by decide)).trans (field_append_middle _ res gain)
    have hgain : (encode (.volt res gain code)).extractLsb' 19 4 = gain :=
      field_append_middle _ gain code
    have hcode : (encode (.volt res gain code)).extractLsb' 0 19 = code :=
      BitVec.extractLsb'_append_eq_right
    simp only [opcodeOfInstr, decodeOperands, hres, hgain, hcode]
  | proc buf =>
    have hwf : buf.wellFormed = true := h
    simp only [opcodeOfInstr, decodeOperands, bufferOf_encode_proc, hwf, if_true]
  | reservedOp7 ignored =>
    have hlow : (encode (.reservedOp7 ignored)).extractLsb' 0 45 = ignored :=
      BitVec.extractLsb'_append_eq_right
    simp only [opcodeOfInstr, decodeOperands, hlow]

/-- Settles O28: an encoded instruction keeps its operation code, passes its row's mask, and its operand
fields are read back. -/
theorem decodeOfEncode : Obligations.DecodeOfEncode := by
  intro i hwf
  rw [decode_eq_ok_iff, opcodeOf_encode]
  exact ⟨encode_matches_row i, decodeOperands_encode hwf⟩

/-! ### Encoding what is decoded -/

/-- A word that passes its row's mask is the row's high bits above the word's operand field. -/
theorem row_append_operand {m n : Nat} {w : BitVec (m + n)} {row : BitVec m}
    (h : w &&& (BitVec.allOnes m ++ 0#n) = row ++ 0#n) : row ++ w.extractLsb' 0 n = w := by
  rw [← high_field_of_mask h, append_fields]

/-- `LEN` and the lanes are the low 35 bits of formats X and B (rules R37, R39). -/
theorem bufferBits_bufferOf (w : Request) : bufferBits (bufferOf w) = w.extractLsb' 0 35 := by
  simp only [bufferBits, bufferOf]
  rw [append_adjacent (k := 24) (a := 3) (b := 8)]
  rw [append_adjacent (k := 16) (a := 11) (b := 8)]
  rw [append_adjacent (k := 8) (a := 19) (b := 8)]
  rw [append_adjacent (k := 0) (a := 27) (b := 8)]

/-- A word that passes its row's mask is rebuilt from its operand fields: the row's bits are the word's
own high bits, and the operands are the fields below them (rules R33 to R39). -/
theorem encode_decodeOperands {w : Request} {op : Opcode} {i : Instr}
    (hrow : w &&& op.maskWord = op.matchWord) (hi : decodeOperands op w = .ok i) :
    encode i = w ∧ i.wellFormed = true := by
  cases op with
  | addr =>
    obtain rfl := Except.ok.inj hi
    have hhigh : w.extractLsb' 3 45 = 0b000#3 ++ 0#42 := high_field_of_mask hrow
    refine ⟨?_, rfl⟩
    simp only [encode, ofBool_bit]
    rw [← hhigh]
    rw [append_adjacent (k := 2) (a := 45) (b := 1)]
    rw [append_adjacent (k := 1) (a := 46) (b := 1)]
    rw [append_adjacent (k := 0) (a := 47) (b := 1)]
    exact field_whole w
  | enc =>
    obtain rfl := Except.ok.inj hi
    refine ⟨?_, rfl⟩
    simp only [encode, ParamsWord.toBits_ofBits]
    exact row_append_operand hrow
  | dec =>
    obtain rfl := Except.ok.inj hi
    exact ⟨row_append_operand (m := 40) (n := 8) (w := w) (row := 0b010#3 ++ 0#37) hrow, rfl⟩
  | bcnt =>
    obtain rfl := Except.ok.inj hi
    exact ⟨row_append_operand (m := 43) (n := 5) (w := w) (row := 0b011#3 ++ 0#40) hrow, rfl⟩
  | xtr =>
    simp only [decodeOperands] at hi
    split at hi
    case isFalse => cases hi
    case isTrue hwf =>
      obtain rfl := Except.ok.inj hi
      refine ⟨?_, hwf⟩
      have hhigh : w.extractLsb' 40 8 = 0b100#3 ++ 0#5 := high_field_of_mask hrow
      simp only [encode, bufferBits_bufferOf]
      rw [← hhigh]
      rw [append_adjacent (k := 35) (a := 8) (b := 5)]
      rw [append_adjacent (k := 0) (a := 13) (b := 35)]
      exact field_whole w
  | volt =>
    obtain rfl := Except.ok.inj hi
    have hhigh : w.extractLsb' 28 20 = 0b101#3 ++ 0#17 := high_field_of_mask hrow
    refine ⟨?_, rfl⟩
    simp only [encode]
    rw [← hhigh]
    rw [append_adjacent (k := 23) (a := 20) (b := 5)]
    rw [append_adjacent (k := 19) (a := 25) (b := 4)]
    rw [append_adjacent (k := 0) (a := 29) (b := 19)]
    exact field_whole w
  | proc =>
    simp only [decodeOperands] at hi
    split at hi
    case isFalse => cases hi
    case isTrue hwf =>
      obtain rfl := Except.ok.inj hi
      refine ⟨?_, hwf⟩
      simp only [encode, bufferBits_bufferOf]
      exact row_append_operand hrow
  | reserved =>
    obtain rfl := Except.ok.inj hi
    exact ⟨row_append_operand (m := 3) (n := 45) (w := w) (row := 0b111#3) hrow, rfl⟩

/-- Settles O29: an accepted word passes its row's mask, so it is rebuilt from its operand fields. -/
theorem encodeOfDecode : Obligations.EncodeOfDecode := by
  intro w i h
  obtain ⟨hrow, hoperands⟩ := decode_eq_ok_iff.mp h
  exact encode_decodeOperands hrow hoperands

end Sys2Proof
end

section
/-! The invariant of the responses: what a response word may hold (`30_encoding.md` rules R42 to R44,
`60_exceptions.md` rule R74), from the payload's bits up to one step. -/

namespace Sys2Proof.Machine

/-- A zero-extended value needs no bit above its own width. -/
theorem toNat_setWidth_lt_two_pow {n k : Nat} (a : BitVec n) (h : n ≤ k) (m : Nat) :
    (a.setWidth m).toNat < 2 ^ k :=
  calc (a.setWidth m).toNat
    _ ≤ a.toNat := by rw [BitVec.toNat_setWidth]; exact Nat.mod_le _ _
    _ < 2 ^ n := a.isLt
    _ ≤ 2 ^ k := Nat.pow_le_pow_right (by decide) h

/-- Bit 56 is the highest that rule R44 names; PROC reaches it. -/
theorem payloadOf_lt (r : Result) : (payloadOf r).toNat < 2 ^ 57 := by
  cases r with
  | address a => exact toNat_setWidth_lt_two_pow a (by decide) 62
  | configByte cfg => exact toNat_setWidth_lt_two_pow cfg (by decide) 62
  | params p => exact toNat_setWidth_lt_two_pow (ParamsWord.ofParameters p).toBits (by decide) 62
  | byteCount n => exact toNat_setWidth_lt_two_pow (BitVec.ofNat 3 n) (by decide) 62
  | outputCode code => exact toNat_setWidth_lt_two_pow (BitVec.ofInt 19 code) (by decide) 62
  | microvolts uvQ9 => exact toNat_setWidth_lt_two_pow (BitVec.ofInt 38 uvQ9) (by decide) 62
  | reading r =>
    exact toNat_setWidth_lt_two_pow
      ((ParamsWord.ofParameters r.params).toBits ++ BitVec.ofInt 38 r.uvQ9) (by decide) 62

/-- The response of an evaluation is allowed, when the evaluation respects the length policy. -/
theorem responseAllowed_responseOf {c : Config} {e : Except Fault Result}
    (h : c.strictLen = false → e ≠ .error .invalidBufferLength) :
    ResponseAllowed c (responseOf e) := by
  have hlength (hc : c.strictLen = false) : statusField (responseOf e) ≠ 0b10#2 :=
    fun hs => h hc (statusField_responseOf_eq_bufferLength_iff.mp hs)
  cases e with
  | ok r =>
    refine ⟨fun hs => absurd (statusField_okResponse r) hs, ?_, hlength⟩
    rw [responseOf, payloadField_okResponse]
    exact payloadOf_lt r
  | error f =>
    refine ⟨fun _ => payloadField_errorResponse f, ?_, hlength⟩
    rw [responseOf, payloadField_errorResponse]
    decide

/-- Every response of the unit is allowed, whatever the request word. -/
theorem responseAllowed_eval (c : Config) (w : Request) : ResponseAllowed c (eval c w) := by
  unfold eval
  cases decode w with
  | ok i => exact responseAllowed_responseOf fun hc => evalInstr_ne_bufferLength hc i
  | error _ => exact responseAllowed_responseOf (e := .error .illegalRequest) nofun

/-- Giving an allowed response keeps the invariant. -/
theorem pushResponse_keeps_inv {s : State} {r : Response} (hs : s.Inv)
    (hr : ResponseAllowed s.config r) : (pushResponse r s).Inv :=
  List.forall_mem_append.mpr ⟨hs, List.forall_mem_singleton.mpr hr⟩

/-- Settles O40: a step is idle or gives the response of one evaluation. -/
theorem stepKeepsResponsesAllowed : Obligations.StepKeepsResponsesAllowed := by
  intro s t hs h
  obtain ⟨-, rfl⟩ | ⟨w, rest, -, rfl⟩ := step_cases h
  · exact hs
  · exact pushResponse_keeps_inv (s := { s with requests := rest }) hs
      (responseAllowed_eval s.config w)

/-- Settles O41: at reset no response has been given. -/
theorem resetResponsesAllowed : Obligations.ResetResponsesAllowed := by
  intro r hr
  rw [State.reset_responses] at hr
  exact absurd hr List.not_mem_nil

end Sys2Proof.Machine
end

section
/-! What ENC reads of its operand (`30_encoding.md` rule R40), and the written requests (rules R47, R48):
which numbers fit a field, which byte lists fit a buffer, and what each form assembles to. -/

namespace Sys2Proof

open Sys2Proof.Statements

/-! ### A field that is present, and one that is absent -/

/-- A field with a default depends on the present bit, and on the value bits when that bit is 1. -/
theorem presentOrDefault_congr {α β : Type} {b c : Bool} {x y : α} (f : α → β) (d : β) (hb : b = c)
    (h : b = true → x = y) : (if b then f x else d) = if c then f y else d := by
  subst hb
  cases b with
  | true => rw [h rfl]
  | false => rfl

/-- The filled parameters are a function of the five fields with their defaults (rule R53). -/
theorem ParamsWord.fill_congr {p q : ParamsWord} (hch : p.channel? = q.channel?)
    (hgain : p.gain? = q.gain?) (hres : p.resolution? = q.resolution?)
    (hmode : p.modeOrDefault = q.modeOrDefault) (hrdy : p.readyOrDefault = q.readyOrDefault) :
    p.fill = q.fill := by
  simp only [ParamsWord.fill, hch, hgain, hres, hmode, hrdy]

/-! ### The bytes of a buffer operand -/

/-- Up to four bytes make a buffer that lists them (rule R47). -/
theorem Buffer.exists_ofBytes? {bytes : List Byte} (h : bytes.length ≤ 4) :
    ∃ b, Buffer.ofBytes? bytes = some b ∧ Lists b bytes := by
  match bytes, h with
  | [], _ => exact ⟨_, rfl, rfl, rfl⟩
  | [_], _ => exact ⟨_, rfl, rfl, rfl⟩
  | [_, _], _ => exact ⟨_, rfl, rfl, rfl⟩
  | [_, _, _], _ => exact ⟨_, rfl, rfl, rfl⟩
  | [_, _, _, _], _ => exact ⟨_, rfl, rfl, rfl⟩

/-- A fifth byte does not fit (rule R18; log entry 10). -/
theorem Buffer.ofBytes?_eq_none {bytes : List Byte} (h : 4 < bytes.length) :
    Buffer.ofBytes? bytes = none := by
  match bytes, h with
  | _ :: _ :: _ :: _ :: _ :: _, _ => rfl

theorem Buffer.length_le_of_ofBytes? {bytes : List Byte} {b : Buffer}
    (h : Buffer.ofBytes? bytes = some b) : bytes.length ≤ 4 := by
  by_contra hlen
  rw [Buffer.ofBytes?_eq_none (Nat.lt_of_not_le hlen)] at h
  cases h

/-- The buffer of a byte list is one a request word can spell (rule R45 (c)). -/
theorem Buffer.wellFormed_of_ofBytes? {bytes : List Byte} {b : Buffer}
    (h : Buffer.ofBytes? bytes = some b) : b.wellFormed = true := by
  have hlen := Buffer.length_le_of_ofBytes? h
  obtain ⟨b', hb', hcount, -⟩ := Buffer.exists_ofBytes? hlen
  obtain rfl := Option.some.inj (h.symm.trans hb')
  exact decide_eq_true (hcount.trans_le hlen)

end Sys2Proof

namespace Sys2Proof.Machine

open Sys2Proof.Statements

/-! ### Numbers in fields -/

theorem fieldOf?_of_lt {w n : Nat} (h : n < 2 ^ w) :
    ∃ f : BitVec w, fieldOf? w n = some f ∧ f.toNat = n :=
  ⟨_, if_pos h, (BitVec.toNat_ofNat n w).trans (Nat.mod_eq_of_lt h)⟩

theorem fieldOf?_of_ge {w n : Nat} (h : 2 ^ w ≤ n) : fieldOf? w n = none :=
  if_neg (Nat.not_lt.mpr h)

theorem lt_of_fieldOf? {w n : Nat} {f : BitVec w} (h : fieldOf? w n = some f) : n < 2 ^ w :=
  (Option.ite_none_right_eq_some.mp h).1

theorem optionalField?_of_fits {w : Nat} {n : Option Nat} (h : FitsField w n) :
    ∃ f : BitVec w, optionalField? w n = some f ∧ f.toNat = n.getD 0 := by
  cases n with
  | none => exact ⟨0, rfl, BitVec.toNat_zero⟩
  | some n => exact fieldOf?_of_lt h

theorem fits_of_optionalField? {w : Nat} {n : Option Nat} {f : BitVec w}
    (h : optionalField? w n = some f) : FitsField w n := by
  cases n with
  | none => exact Nat.two_pow_pos w
  | some n => exact lt_of_fieldOf? h

/-- A code of the 19-bit range is kept (rule R38). -/
theorem codeOf?_of_range {code : Int} (hlo : -(2 ^ 18 : Int) ≤ code) (hhi : code < 2 ^ 18) :
    ∃ c : BitVec 19, codeOf? code = some c ∧ c.toInt = code :=
  ⟨_, if_pos (by omega), BitVec.toInt_ofInt_eq_self (by decide) hlo hhi⟩

theorem range_of_codeOf? {code : Int} {c : BitVec 19} (h : codeOf? code = some c) :
    -(2 ^ 18 : Int) ≤ code ∧ code < 2 ^ 18 := by
  obtain ⟨hrange, -⟩ := Option.ite_none_right_eq_some.mp h
  omega

/-! ### Assembled instructions -/

theorem wellFormed_of_assemble {l : AsmLine} {i : Instr} (h : assemble l = some i) :
    i.wellFormed = true := by
  cases l with
  | addr a0 a1 a2 => obtain rfl := Option.some.inj h; rfl
  | addr0 => obtain rfl := Option.some.inj h; rfl
  | encd => obtain rfl := Option.some.inj h; rfl
  | dec cfg => obtain rfl := Option.some.inj h; rfl
  | enc ch rdy mode gain res =>
    simp only [assemble] at h
    split at h
    · obtain rfl := Option.some.inj h; rfl
    · cases h
  | bcnt res =>
    obtain ⟨r, -, rfl⟩ := Option.map_eq_some_iff.mp h
    rfl
  | xtr res bytes =>
    simp only [assemble] at h
    split at h
    case h_1 hb =>
      obtain rfl := Option.some.inj h
      exact Buffer.wellFormed_of_ofBytes? hb
    case h_2 => cases h
  | volt res gain code =>
    simp only [assemble] at h
    split at h
    · obtain rfl := Option.some.inj h; rfl
    · cases h
  | proc bytes =>
    obtain ⟨b, hb, rfl⟩ := Option.map_eq_some_iff.mp h
    exact Buffer.wellFormed_of_ofBytes? hb

/-- Rule R47, ENC: a field is present exactly when it is written. -/
theorem assemble_enc_of_fits {ch gain res : Option Nat} (rdy : Option Bool) (mode : Option Mode)
    (hch : FitsField 3 ch) (hgain : FitsField 4 gain) (hres : FitsField 5 res) :
    ∃ p : ParamsWord, assemble (.enc ch rdy mode gain res) = some (.enc p) ∧
      p.pCh = ch.isSome ∧ p.pRdy = rdy.isSome ∧ p.pMode = mode.isSome ∧ p.pGain = gain.isSome ∧
      p.pRes = res.isSome ∧
      p.ch.toNat = ch.getD 0 ∧ p.gain.toNat = gain.getD 0 ∧ p.res.toNat = res.getD 0 ∧
      (p.rdy = true ↔ rdy = some true) ∧ (p.mode = true ↔ mode = some .continuous) := by
  obtain ⟨c, hc, hcval⟩ := optionalField?_of_fits hch
  obtain ⟨g, hg, hgval⟩ := optionalField?_of_fits hgain
  obtain ⟨r, hr, hrval⟩ := optionalField?_of_fits hres
  simp only [assemble, hc, hg, hr]
  refine ⟨_, rfl, rfl, rfl, rfl, rfl, rfl, hcval, hgval, hrval, ?_, ?_⟩
  · cases rdy <;> simp
  · rcases mode with _ | _ | _ <;> simp [Mode.field]

theorem assemble_enc_of_not_fits {ch gain res : Option Nat} (rdy : Option Bool) (mode : Option Mode)
    (h : ¬ (FitsField 3 ch ∧ FitsField 4 gain ∧ FitsField 5 res)) :
    assemble (.enc ch rdy mode gain res) = none := by
  simp only [assemble]
  split
  case h_1 hch hgain hres =>
    exact absurd ⟨fits_of_optionalField? hch, fits_of_optionalField? hgain,
      fits_of_optionalField? hres⟩ h
  case h_2 => rfl

/-- Rule R47, XTR: the number is kept and the bytes are listed. -/
theorem assemble_xtr_of_fits {res : Nat} {bytes : List Byte} (hres : res < 32)
    (hlen : bytes.length ≤ 4) :
    ∃ (r : BitVec 5) (b : Buffer), r.toNat = res ∧ Lists b bytes ∧
      assemble (.xtr res bytes) = some (.xtr r b) := by
  obtain ⟨r, hr, hrval⟩ := fieldOf?_of_lt (w := 5) hres
  obtain ⟨b, hb, hlists⟩ := Buffer.exists_ofBytes? hlen
  exact ⟨r, b, hrval, hlists, by simp only [assemble, hr, hb]⟩

theorem assemble_xtr_of_not_fits {res : Nat} {bytes : List Byte}
    (h : 32 ≤ res ∨ 4 < bytes.length) : assemble (.xtr res bytes) = none := by
  simp only [assemble]
  split
  case h_1 hres hbytes =>
    have hlt := lt_of_fieldOf? hres
    have hle := Buffer.length_le_of_ofBytes? hbytes
    omega
  case h_2 => rfl

/-- Rules R38, R47, VOLT: the numbers are kept, the code as a signed 19-bit number. -/
theorem assemble_volt_of_fits {res gain : Nat} {code : Int} (hres : res < 32) (hgain : gain < 16)
    (hlo : -(2 ^ 18 : Int) ≤ code) (hhi : code < 2 ^ 18) :
    ∃ (r : BitVec 5) (g : BitVec 4) (c : BitVec 19), r.toNat = res ∧ g.toNat = gain ∧
      c.toInt = code ∧ assemble (.volt res gain code) = some (.volt r g c) := by
  obtain ⟨r, hr, hrval⟩ := fieldOf?_of_lt (w := 5) hres
  obtain ⟨g, hg, hgval⟩ := fieldOf?_of_lt (w := 4) hgain
  obtain ⟨c, hc, hcval⟩ := codeOf?_of_range hlo hhi
  exact ⟨r, g, c, hrval, hgval, hcval, by simp only [assemble, hr, hg, hc]⟩

theorem assemble_volt_of_not_fits {res gain : Nat} {code : Int}
    (h : 32 ≤ res ∨ 16 ≤ gain ∨ code < -(2 ^ 18 : Int) ∨ 2 ^ 18 ≤ code) :
    assemble (.volt res gain code) = none := by
  simp only [assemble]
  split
  case h_1 hres hgain hcode =>
    have hres := lt_of_fieldOf? hres
    have hgain := lt_of_fieldOf? hgain
    obtain ⟨hlo, hhi⟩ := range_of_codeOf? hcode
    omega
  case h_2 => rfl

theorem assemble_bcnt_of_fits {res : Nat} (h : res < 32) :
    ∃ r : BitVec 5, r.toNat = res ∧ assemble (.bcnt res) = some (.bcnt r) := by
  obtain ⟨r, hr, hrval⟩ := fieldOf?_of_lt (w := 5) h
  exact ⟨r, hrval, by rw [assemble, hr, Option.map_some]⟩

theorem assemble_bcnt_of_not_fits {res : Nat} (h : 32 ≤ res) : assemble (.bcnt res) = none := by
  rw [assemble, fieldOf?_of_ge (w := 5) h, Option.map_none]

theorem assemble_proc_of_fits {bytes : List Byte} (h : bytes.length ≤ 4) :
    ∃ b : Buffer, Lists b bytes ∧ assemble (.proc bytes) = some (.proc b) := by
  obtain ⟨b, hb, hlists⟩ := Buffer.exists_ofBytes? h
  exact ⟨b, hlists, by rw [assemble, hb, Option.map_some]⟩

theorem assemble_proc_of_not_fits {bytes : List Byte} (h : 4 < bytes.length) :
    assemble (.proc bytes) = none := by
  rw [assemble, Buffer.ofBytes?_eq_none h, Option.map_none]

/-! ### The statements -/

/-- Settles O5: each of the five fields with its default depends on its value bits only when present. -/
theorem encIgnoresAbsentFieldBits : Obligations.EncIgnoresAbsentFieldBits := by
  intro p q s pCh pRdy pMode pGain pRes hch hrdy hmode hgain hres
  have hfill : p.fill = q.fill := ParamsWord.fill_congr
    (presentOrDefault_congr Channel.ofField? _ pCh hch)
    (presentOrDefault_congr Gain.ofField? _ pGain hgain)
    (presentOrDefault_congr Resolution.ofField? _ pRes hres)
    (presentOrDefault_congr Mode.ofField _ pMode hmode)
    (presentOrDefault_congr id _ pRdy hrdy)
  exact exists_common_answer (by simp only [evalInstr, evalEnc, hfill])

/-- Settles O47: an assembled instruction is well formed, so its word decodes to it; each form's operands
are those of its `assemble_` lemma. -/
theorem assembledRequestsDecode : Obligations.AssembledRequestsDecode :=
  ⟨fun _ i h => decodeOfEncode i (wellFormed_of_assemble h),
    fun _ _ _ => rfl,
    fun _ rdy mode _ _ =>
      ⟨fun ⟨hch, hgain, hres⟩ => assemble_enc_of_fits rdy mode hch hgain hres,
        assemble_enc_of_not_fits rdy mode⟩,
    fun _ => rfl,
    fun _ => ⟨assemble_bcnt_of_fits, assemble_bcnt_of_not_fits⟩,
    fun _ _ => ⟨fun ⟨hres, hlen⟩ => assemble_xtr_of_fits hres hlen, assemble_xtr_of_not_fits⟩,
    fun _ _ _ =>
      ⟨fun ⟨hres, hgain, hlo, hhi⟩ => assemble_volt_of_fits hres hgain hlo hhi,
        assemble_volt_of_not_fits⟩,
    fun _ => ⟨assemble_proc_of_fits, assemble_proc_of_not_fits⟩⟩

/-- Settles O30: each word is decoded by evaluation. -/
theorem writtenOutWordsDecode : Obligations.WrittenOutWordsDecode := by
  unfold Obligations.WrittenOutWordsDecode
  decide

/-- Settles O46: the two words by evaluation, the answers as responses of the two evaluations, which
read nothing of the state. -/
theorem pseudoOperationsExpand : Obligations.PseudoOperationsExpand :=
  ⟨rfl, rfl, fun _ => ⟨⟨_, rfl, answers_of_responseOf rfl⟩, ⟨_, rfl, answers_of_responseOf rfl⟩⟩⟩

end Sys2Proof.Machine
end

section
/-! The slave address (`40_address.md`): the pins' bits as plain numbers (rule R50), which of them the base
address already holds (rule R51), and the response of ADDR. -/

namespace Sys2Proof.Machine

open Sys2Proof.Statements

/-- Rule R50 in plain numbers. -/
theorem toNat_slaveAddress (a0 a1 a2 : Bool) :
    (slaveAddress a0 a1 a2).toNat =
      0x0d ||| (if a0 then 0x01 else 0x00) ||| (if a1 then 0x02 else 0x00)
        ||| (if a2 then 0x04 else 0x00) := by
  simp only [slaveAddress, baseAddress, BitVec.toNat_or, apply_ite BitVec.toNat, BitVec.toNat_ofNat,
    Nat.reducePow, Nat.reduceMod]

/-- A pin whose bit the address already holds does not change it (rule R51). -/
theorem or_pin_of_held {a bit : Byte} (pin : Bool) (h : a ||| bit = a) :
    a ||| (if pin then bit else 0x00#8) = a := by
  cases pin with
  | true => exact h
  | false => exact BitVec.or_zero

/-- Rule R51: the base address holds the bits of `a0` and `a2`, so only `a1` matters. -/
theorem slaveAddress_eq_ite (a0 a1 a2 : Bool) :
    slaveAddress a0 a1 a2 = if a1 then 0x0f#8 else 0x0d#8 := by
  have h0 : baseAddress ||| (if a0 then 0x01#8 else 0x00#8) = baseAddress :=
    or_pin_of_held a0 (by decide)
  rw [slaveAddress, h0]
  cases a1 with
  | true => exact or_pin_of_held a2 (by decide)
  | false => exact or_pin_of_held a2 (by decide)

/-- ADDR answers the slave address (rules R44, R50). -/
theorem answers_addr (a0 a1 a2 : Bool) (s : State) :
    Answers (.addr a0 a1 a2) s ((slaveAddress a0 a1 a2).setWidth 64) :=
  answers_of_responseOf (okResponse_of_payloadOf (by decide) rfl)

/-- Settles O2: the answer is the slave address, as rule R50's formula and as rule R51's two values. -/
theorem addrOrsStrapPinsIntoBase : Obligations.AddrOrsStrapPinsIntoBase := by
  intro a0 a1 a2 s
  have h := answers_addr a0 a1 a2 s
  constructor
  · rwa [← toNat_slaveAddress, BitVec.ofNat_toNat]
  · rwa [slaveAddress_eq_ite, apply_ite (BitVec.setWidth 64)] at h

end Sys2Proof.Machine
end

section
/-! The configuration codec (`41_config_codec.md`): what `fill` answers, by the fields an ENC operand
holds (rules R53, R54); the flag table as plain numbers (rule R52); the `PARAMS` word DEC answers
(rule R55); and that the two directions are inverse (rule R56). -/

namespace Sys2Proof

open Sys2Proof.Statements

/-! ### The legal fields -/

theorem Channel.ofField?_eq_none_iff : ∀ f : BitVec 3,
    Channel.ofField? f = none ↔ f.toNat ∉ [1, 2, 3, 4] := by
  decide

theorem Gain.ofField?_eq_none_iff : ∀ f : BitVec 4,
    Gain.ofField? f = none ↔ f.toNat ∉ [1, 2, 4, 8] := by
  decide

theorem Resolution.ofField?_eq_none_iff : ∀ f : BitVec 5,
    Resolution.ofField? f = none ↔ f.toNat ∉ [12, 14, 16, 18] := by
  decide

@[simp] theorem Mode.field_ofField (b : Bool) : (Mode.ofField b).field = b := by
  cases b <;> rfl

/-- A field with a default is missing only when it is present and refused. -/
theorem presentOrDefault_eq_none_iff {α β : Type} {b : Bool} {x : α} (f : α → Option β) (d : β) :
    (if b then f x else some d) = none ↔ b = true ∧ f x = none := by
  cases b <;> simp

/-- Rule R73 for ENC: a present field outside its enumeration is a field `fill` does not get. -/
theorem encInvalid_iff (p : ParamsWord) :
    encInvalid p ↔ p.channel? = none ∨ p.gain? = none ∨ p.resolution? = none := by
  unfold encInvalid ParamsWord.channel? ParamsWord.gain? ParamsWord.resolution?
  rw [presentOrDefault_eq_none_iff, presentOrDefault_eq_none_iff, presentOrDefault_eq_none_iff,
    Channel.ofField?_eq_none_iff, Gain.ofField?_eq_none_iff, Resolution.ofField?_eq_none_iff]

/-- `fill` on the three checked fields (rules R53, R54). -/
theorem ParamsWord.fill_of_some {p : ParamsWord} {c : Channel} {g : Gain} {r : Resolution}
    (hc : p.channel? = some c) (hg : p.gain? = some g) (hr : p.resolution? = some r) :
    p.fill = .ok { channel := c, readyOrConverting := p.readyOrDefault, mode := p.modeOrDefault,
                   gain := g, resolution := r } := by
  simp only [ParamsWord.fill, hc, hg, hr]

/-- Rule R54: `fill` refuses an illegal operand. -/
theorem ParamsWord.fill_of_encInvalid {p : ParamsWord} (h : encInvalid p) :
    p.fill = .error .invalidParameter := by
  obtain ⟨c, g, r, hc, hg, hr, -⟩ | ⟨-, herr⟩ := p.fill_cases
  · rw [encInvalid_iff, hc, hg, hr] at h
    obtain h | h | h := h <;> cases h
  · exact herr

/-- A legal operand with every field present is a full parameter record (rules R40, R53). -/
theorem ParamsWord.exists_ofParameters {p : ParamsWord} (hch : p.pCh = true) (hrdy : p.pRdy = true)
    (hmode : p.pMode = true) (hgain : p.pGain = true) (hres : p.pRes = true)
    (hlegal : ¬ encInvalid p) : ∃ q, ParamsWord.ofParameters q = p := by
  obtain ⟨c, g, r, hc, hg, hr, -⟩ | ⟨hnone, -⟩ := p.fill_cases
  · rw [ParamsWord.channel?, if_pos hch] at hc
    rw [ParamsWord.gain?, if_pos hgain] at hg
    rw [ParamsWord.resolution?, if_pos hres] at hr
    refine ⟨{ channel := c, readyOrConverting := p.rdy, mode := Mode.ofField p.mode, gain := g,
              resolution := r }, ?_⟩
    obtain ⟨pRes, pGain, pMode, pRdy, pCh, res, gain, mode, rdy, ch⟩ := p
    simp only [ParamsWord.ofParameters, ParamsWord.mk.injEq, true_and]
    exact ⟨hres.symm, hgain.symm, hmode.symm, hrdy.symm, hch.symm,
      Resolution.field_of_ofField? res r hr, Gain.field_of_ofField? gain g hg,
      Mode.field_ofField mode, Channel.field_of_ofField? ch c hc⟩
  · exact absurd ((encInvalid_iff p).mpr hnone) hlegal

/-- With no field present, `fill` gives the default parameters (rule R53). -/
theorem ParamsWord.fill_of_absent {p : ParamsWord} (hch : p.pCh = false) (hrdy : p.pRdy = false)
    (hmode : p.pMode = false) (hgain : p.pGain = false) (hres : p.pRes = false) :
    p.fill = .ok Parameters.default := by
  have hc : p.channel? = some Parameters.default.channel := by rw [ParamsWord.channel?, hch]; rfl
  have hg : p.gain? = some Parameters.default.gain := by rw [ParamsWord.gain?, hgain]; rfl
  have hr : p.resolution? = some Parameters.default.resolution := by
    rw [ParamsWord.resolution?, hres]; rfl
  rw [ParamsWord.fill_of_some hc hg hr, ParamsWord.modeOrDefault, ParamsWord.readyOrDefault, hmode,
    hrdy]
  rfl

/-! ### The `PARAMS` word as a number -/

theorem toNat_append_eq_add {m n : Nat} (a : BitVec m) (b : BitVec n) :
    (a ++ b).toNat = a.toNat * 2 ^ n + b.toNat := by
  rw [BitVec.toNat_append, ← Nat.shiftLeft_add_eq_or_of_lt b.isLt, Nat.shiftLeft_eq]

/-- The layout of rule R40 for a full record, in plain numbers. -/
theorem toNat_toBits_ofParameters (p : Parameters) :
    (ParamsWord.ofParameters p).toBits.toNat =
      31 * 2 ^ 14 + p.resolution.field.toNat * 2 ^ 9 + p.gain.field.toNat * 2 ^ 5
        + p.mode.field.toNat * 2 ^ 4 + p.readyOrConverting.toNat * 2 ^ 3
        + p.channel.field.toNat := by
  simp only [ParamsWord.toBits, ParamsWord.ofParameters, toNat_append_eq_add, BitVec.toNat_ofBool,
    Bool.toNat_true]
  omega

end Sys2Proof

namespace Sys2Proof.Machine

open Sys2Proof.Statements

/-! ### The responses of ENC -/

theorem okResponse_configByte (b : Byte) : okResponse (.configByte b) = b.setWidth 64 :=
  okResponse_of_payloadOf (by decide) rfl

/-- ENC answers the byte of the filled parameters, or the error of `fill` (rule R54). -/
theorem answers_enc (p : ParamsWord) (s : State) :
    Answers (.enc p) s (responseOf (p.fill.map fun q => .configByte (encodeParameters q))) := by
  apply answers_of_responseOf
  rw [evalInstr, evalEnc]
  cases p.fill <;> rfl

theorem answers_enc_of_fill {p : ParamsWord} {q : Parameters} (h : p.fill = .ok q) (s : State) :
    Answers (.enc p) s ((encodeParameters q).setWidth 64) := by
  have henc := answers_enc p s
  rw [h] at henc
  exact okResponse_configByte (encodeParameters q) ▸ henc

/-! ### The flag table in plain numbers -/

/-- A row of a flag table, read with a default: the field is in the enumeration, and its flag is the
row's (rules R52, R53).  `field` and `ofField?` are the enumeration's, `values` its members. -/
theorem exists_of_flag_row {α : Type} {w : Nat} {field : α → BitVec w}
    {ofField? : BitVec w → Option α} (hback : ∀ a, ofField? (field a) = some a)
    {values : List α} {flag : α → Byte} {b : Bool} {f : BitVec w} {d : α} {n : Nat}
    (h : ((if b then f.toNat else (field d).toNat), n) ∈
      values.map fun a => ((field a).toNat, (flag a).toNat)) :
    ∃ a, (if b then ofField? f else some d) = some a ∧ (flag a).toNat = n := by
  obtain ⟨a, -, hrow⟩ := List.mem_map.mp h
  obtain ⟨hfield, hflag⟩ := Prod.mk.inj hrow
  rw [← apply_ite BitVec.toNat] at hfield
  refine ⟨a, ?_, hflag⟩
  rw [← hback d, ← apply_ite ofField?, ← BitVec.eq_of_toNat_eq hfield, hback]

theorem toNat_readyFlag (b : Bool) : (readyFlag b).toNat = if b then 0x80 else 0x00 := by
  cases b <;> rfl

theorem toNat_modeFlag (m : Mode) : (modeFlag m).toNat = if m.field then 0x10 else 0x00 := by
  cases m <;> rfl

theorem field_modeOrDefault (p : ParamsWord) :
    p.modeOrDefault.field = if p.pMode then p.mode else true := by
  rw [ParamsWord.modeOrDefault, apply_ite Mode.field, Mode.field_ofField]
  rfl

/-! ### DEC in plain numbers -/

theorem bitOf_eq_toNat_getLsbD (b : Byte) (i : Nat) : bitOf b i = (b.getLsbD i).toNat :=
  (Nat.toNat_testBit b.toNat i).symm

theorem field_resolution_decodeConfig (b : Byte) :
    (decodeConfig b).resolution.field.toNat = resolutionIn b := by
  rw [resolutionIn_eq_bits]
  exact Resolution.toNat_of_ofField? (Resolution.ofField?_field _)

theorem Gain.toNat_field (g : Gain) : g.field.toNat = 2 ^ g.index := by
  cases g <;> rfl

theorem field_gain_decodeConfig (b : Byte) : (decodeConfig b).gain.field.toNat = gainIn b := by
  rw [Gain.toNat_field, index_gain_decodeConfig]
  unfold gainIn bitOf
  congr 1
  omega

theorem field_channel_decodeConfig (b : Byte) :
    (decodeConfig b).channel.field.toNat = channelIn b := by
  rw [Channel.toNat_field, index_channel_decodeConfig]
  unfold channelIn bitOf
  omega

theorem field_mode_decodeConfig (b : Byte) : (decodeConfig b).mode.field = b.getLsbD 4 := by
  unfold decodeConfig
  cases b.getLsbD 4 <;> rfl

/-- Rule R55 in plain numbers. -/
theorem toNat_toBits_decodeConfig (b : Byte) :
    (ParamsWord.ofParameters (decodeConfig b)).toBits.toNat = paramsIn b := by
  rw [toNat_toBits_ofParameters, field_resolution_decodeConfig, field_gain_decodeConfig,
    field_channel_decodeConfig, field_mode_decodeConfig, paramsIn, bitOf_eq_toNat_getLsbD b 4,
    bitOf_eq_toNat_getLsbD b 7]
  rfl

/-! ### DEC after ENC -/

theorem exists_channelOfBits : ∀ c : Channel, ∃ hi lo, channelOfBits hi lo = c
  | .ch1 => ⟨false, false, rfl⟩
  | .ch2 => ⟨false, true, rfl⟩
  | .ch3 => ⟨true, false, rfl⟩
  | .ch4 => ⟨true, true, rfl⟩

theorem exists_gainOfBits : ∀ g : Gain, ∃ hi lo, gainOfBits hi lo = g
  | .x1 => ⟨false, false, rfl⟩
  | .x2 => ⟨false, true, rfl⟩
  | .x4 => ⟨true, false, rfl⟩
  | .x8 => ⟨true, true, rfl⟩

theorem exists_resolutionOfBits : ∀ r : Resolution, ∃ hi lo, resolutionOfBits hi lo = r
  | .r12 => ⟨false, false, rfl⟩
  | .r14 => ⟨false, true, rfl⟩
  | .r16 => ⟨true, false, rfl⟩
  | .r18 => ⟨true, true, rfl⟩

/-- Any eight bits are the bits of a byte, bit 0 first (rule R5). -/
theorem exists_byte_of_bits {bits : List Bool} (h : bits.length = 8) :
    ∃ b : Byte, ∀ i, b.getLsbD i = bits.getD i false :=
  ⟨(BitVec.ofBoolListLE bits).cast h, fun _ => BitVec.getLsbD_ofBoolListLE⟩

/-- Every parameter record is the reading of a byte: its fields give the byte's eight bits
(rule R55). -/
theorem decodeConfig_surjective : Function.Surjective decodeConfig := by
  intro p
  obtain ⟨c, rdy, m, g, r⟩ := p
  obtain ⟨c1, c0, rfl⟩ := exists_channelOfBits c
  obtain ⟨g1, g0, rfl⟩ := exists_gainOfBits g
  obtain ⟨r1, r0, rfl⟩ := exists_resolutionOfBits r
  obtain ⟨b, hb⟩ := exists_byte_of_bits (bits := [g0, g1, r0, r1, m.field, c0, c1, rdy]) rfl
  refine ⟨b, ?_⟩
  simp only [decodeConfig, hb]
  cases m <;> rfl

/-- Rule R56 on typed parameters: `encodeParameters` undoes `decodeConfig`, which reaches every
record. -/
@[simp] theorem decodeConfig_encodeParameters (p : Parameters) :
    decodeConfig (encodeParameters p) = p := by
  obtain ⟨b, rfl⟩ := decodeConfig_surjective p
  rw [encodeParameters_decodeConfig]

/-! ### The statements -/

/-- Settles O3: each field's row of the flag table names the value `fill` takes; an illegal field
stops `fill`. -/
theorem encAnswersFlagsOrInvalidParameter : Obligations.EncAnswersFlagsOrInvalidParameter := by
  intro p s
  refine ⟨?_, fun h => ?_⟩
  · rintro _ _ _ _ _ _ rfl rfl rfl hch hgain hres
    obtain ⟨c, hc, rfl⟩ := exists_of_flag_row Channel.ofField?_field (d := .ch1)
      (values := [.ch1, .ch2, .ch3, .ch4]) (flag := channelFlag) hch
    obtain ⟨g, hg, rfl⟩ := exists_of_flag_row Gain.ofField?_field (d := .x1)
      (values := [.x1, .x2, .x4, .x8]) (flag := gainFlag) hgain
    obtain ⟨r, hr, rfl⟩ := exists_of_flag_row Resolution.ofField?_field (d := .r12)
      (values := [.r12, .r14, .r16, .r18]) (flag := resolutionFlag) hres
    have henc := answers_enc_of_fill (ParamsWord.fill_of_some hc hg hr) s
    rw [← BitVec.ofNat_toNat] at henc
    simp only [encodeParameters, BitVec.toNat_or, toNat_readyFlag, toNat_modeFlag,
      field_modeOrDefault] at henc
    exact henc
  · have henc := answers_enc p s
    rw [ParamsWord.fill_of_encInvalid h] at henc
    exact henc

/-- Settles O6: DEC answers the full record of the byte's parameters, which in plain numbers is
`paramsIn`. -/
theorem decAnswersFields : Obligations.DecAnswersFields := by
  intro b s
  have hdec := answers_dec b s
  rwa [← BitVec.ofNat_toNat, toNat_toBits_decodeConfig] at hdec

/-- Settles O7: both directions of rule R56 on typed parameters, carried to the port words. -/
theorem encAndDecAreInverse : Obligations.EncAndDecAreInverse := by
  refine ⟨fun b s => ⟨_, answers_dec b s, ?_⟩, fun p s hch hrdy hmode hgain hres hlegal => ?_⟩
  · have henc := answers_enc_ofParameters (decodeConfig b) s
    rw [encodeParameters_decodeConfig] at henc
    rwa [field_setWidth _ (by decide), ParamsWord.ofBits_toBits]
  · obtain ⟨q, rfl⟩ := ParamsWord.exists_ofParameters hch hrdy hmode hgain hres hlegal
    refine ⟨_, answers_enc_ofParameters q s, ?_, ?_⟩
    · rw [← okResponse_configByte, statusField_okResponse]
    · have hdec := answers_dec (encodeParameters q) s
      rw [decodeConfig_encodeParameters] at hdec
      rwa [field_setWidth _ (by decide)]

/-- Settles O4: the byte of the default parameters is `0x90`. -/
theorem encWithNoFieldPresentAnswersDefault : Obligations.EncWithNoFieldPresentAnswersDefault :=
  fun _ s hch hrdy hmode hgain hres =>
    answers_enc_of_fill (ParamsWord.fill_of_absent hch hrdy hmode hgain hres) s

end Sys2Proof.Machine
end

section
/-! The buffer shape and the output code (`42_buffer_extract.md`): the byte count BCNT answers
(rule R58); the data field and the sign rule as plain numbers (rules R59, R60); the answers of XTR
(rule R61); and the set of codes it produces (rule R62). -/

namespace Sys2Proof.Machine

open Sys2Proof.Statements

/-! ### Answers that carry a signed number -/

/-- The evaluation is a function of configuration and request, so an operation has one answer. -/
theorem answers_unique {i : Instr} {s : State} {r q : Response} (hr : Answers i s r)
    (hq : Answers i s q) : r = q :=
  (answers_iff.mp hr).symm.trans (answers_iff.mp hq)

/-- The packing `sext_w` of rule R6, zero-extended to the port, as a plain number. -/
theorem setWidth_ofInt_eq_twosComplement (w n : Nat) (v : Int) :
    (BitVec.ofInt w v).setWidth n = BitVec.ofNat n (twosComplement w v) := by
  rw [← BitVec.ofNat_toNat, BitVec.toNat_ofInt]
  rfl

/-- The word of a signed number gives the number back when it fits (rule R6). -/
theorem twosComplement_word_inj {w n : Nat} (hw : w + 1 ≤ n) {u v : Int}
    (hu : -(2 ^ w : Int) ≤ u ∧ u < 2 ^ w) (hv : -(2 ^ w : Int) ≤ v ∧ v < 2 ^ w)
    (h : BitVec.ofNat n (twosComplement (w + 1) u) = BitVec.ofNat n (twosComplement (w + 1) v)) :
    u = v := by
  have hfield := congrArg (fun x => (x.extractLsb' 0 (w + 1)).toInt) h
  simp only [← setWidth_ofInt_eq_twosComplement, field_setWidth _ hw] at hfield
  rwa [BitVec.toInt_ofInt_eq_self (by omega) (by simpa using hu.1) (by simpa using hu.2),
    BitVec.toInt_ofInt_eq_self (by omega) (by simpa using hv.1) (by simpa using hv.2)] at hfield

theorem okResponse_outputCode (code : Int) :
    okResponse (.outputCode code) = BitVec.ofNat 64 (twosComplement 19 code) :=
  (okResponse_of_payloadOf (by decide) rfl).trans (setWidth_ofInt_eq_twosComplement 19 64 code)

/-! ### The data field and the code in plain numbers -/

theorem byteAt_eq_toNat_read (b : Buffer) (i : Nat) : byteAt b i = (b.read i).toNat :=
  congrArg BitVec.toNat (read_eq_getD_bufferBytes b i).symm

/-- The four lines of rule R59 as the sums of the statements. -/
theorem dataOf_bits (r : Resolution) (b : Buffer) : dataOf r.bits b = dataField r b := by
  obtain ⟨h12, h14, h16⟩ := dataField_two_bytes b
  simp only [dataOf, byteAt_eq_toNat_read]
  cases r with
  | r12 => exact h12.symm
  | r14 => exact h14.symm
  | r16 => exact h16.symm
  | r18 => rw [dataField_three_bytes, ← Nat.add_assoc]; rfl

theorem dataOf_lt (r : Resolution) (b : Buffer) : dataOf r.bits b < 2 ^ r.bits :=
  dataOf_bits r b ▸ dataField_lt r b

theorem two_pow_bits_eq_double (r : Resolution) : 2 ^ r.bits = 2 * 2 ^ (r.bits - 1) := by
  cases r <;> rfl

/-- The top bit of a number is set from its weight on. -/
theorem testBit_top_iff {d k : Nat} (h : d < 2 * 2 ^ k) : d.testBit k = true ↔ 2 ^ k ≤ d := by
  refine ⟨Nat.ge_two_pow_of_testBit, fun hd => ?_⟩
  exact Nat.testBit_of_two_pow_le_and_two_pow_add_one_gt hd (by omega)

/-- Rule R60: the model's sign test on bit `r - 1` is the comparison of the statements. -/
theorem outputCode_eq_codeOf (r : Resolution) (b : Buffer) : outputCode r b = codeOf r.bits b := by
  have hlt := dataField_lt r b
  rw [two_pow_bits_eq_double] at hlt
  simp only [outputCode, codeOf, dataOf_bits, testBit_top_iff hlt]

/-- The code is the data field up to its sign, so it determines the data field (rule R62). -/
theorem natAbs_codeOf (r : Nat) (b : Buffer) : (codeOf r b).natAbs = dataOf r b := by
  unfold codeOf
  split <;> omega

/-- Every value of the resolution's width is the data field of a full frame (rule R59). -/
theorem exists_dataOf_eq (r : Resolution) {d : Nat} (hd : d < 2 ^ r.bits) :
    ∃ b : Buffer, b.len.toNat ≤ 4 ∧ dataOf r.bits b = d := by
  cases r with
  | r18 =>
    refine ⟨{ len := 4#3, b0 := .ofNat 8 (d / 65536), b1 := .ofNat 8 (d / 256), b2 := .ofNat 8 d,
              b3 := 0#8 }, Nat.le_refl 4, ?_⟩
    change d / 65536 % 256 % 4 * 65536 + d / 256 % 256 * 256 + d % 256 = d
    change d < 262144 at hd
    omega
  | r12 | r14 | r16 =>
    refine ⟨{ len := 4#3, b0 := .ofNat 8 (d / 256), b1 := .ofNat 8 d, b2 := 0#8, b3 := 0#8 },
      Nat.le_refl 4, ?_⟩
    simp only [Resolution.bits] at hd ⊢
    change d / 256 % 256 % 2 ^ _ * 256 + d % 256 = d
    omega

/-- Rule R62: the codes of a resolution are the values below the sign weight and the negations of
those from it on. -/
theorem exists_codeOf_eq_iff (r : Resolution) (code : Int) :
    (∃ b : Buffer, b.len.toNat ≤ 4 ∧ codeOf r.bits b = code) ↔
      (0 ≤ code ∧ code < 2 ^ (r.bits - 1)) ∨
        (-(2 ^ r.bits - 1 : Int) ≤ code ∧ code ≤ -(2 ^ (r.bits - 1) : Int)) := by
  have hpow := two_pow_bits_eq_double r
  have hcast (k : Nat) : (2 : Int) ^ k = (2 ^ k : Nat) := (Nat.cast_pow 2 k).symm
  rw [hcast r.bits, hcast (r.bits - 1)]
  constructor
  · rintro ⟨b, -, rfl⟩
    have hlt := dataOf_lt r b
    unfold codeOf
    split <;> omega
  · intro hcode
    obtain ⟨b, hlen, hdata⟩ := exists_dataOf_eq r (d := code.natAbs) (by omega)
    refine ⟨b, hlen, ?_⟩
    rw [codeOf, hdata]
    split <;> omega

/-! ### The answers of XTR -/

/-- XTR of a legal resolution, with its code and its length check in the statements' numbers. -/
theorem evalXtr_eq_codeOf {res : BitVec 5} (hres : res.toNat ∈ [12, 14, 16, 18]) (buf : Buffer)
    (c : Config) :
    evalXtr c res buf = if c.strictLen = true ∧ buf.len.toNat < frameLength res.toNat
      then .error .invalidBufferLength else .ok (.outputCode (codeOf res.toNat buf)) := by
  obtain ⟨r, hr⟩ := Resolution.exists_of_legal hres
  rw [Resolution.toNat_of_ofField? hr, frameLength_bits, ← outputCode_eq_codeOf]
  simp only [evalXtr, hr, tooShort, Bool.and_eq_true, decide_eq_true_eq]

/-- XTR past its two checks answers the code (rules R44, R61). -/
theorem answers_xtr {res : BitVec 5} {buf : Buffer} {s : State}
    (hres : res.toNat ∈ [12, 14, 16, 18])
    (hlen : s.config.strictLen = true → frameLength res.toNat ≤ buf.len.toNat) :
    Answers (.xtr res buf) s (BitVec.ofNat 64 (twosComplement 19 (codeOf res.toNat buf))) := by
  rw [answers_iff, evalInstr, evalXtr_eq_codeOf hres,
    if_neg fun ⟨hs, hshort⟩ => Nat.not_lt.mpr (hlen hs) hshort]
  exact okResponse_outputCode _

/-! ### The statements -/

/-- Settles O10: the two checks of rule R61, and past them the code. -/
theorem xtrAnswersNegatedField : Obligations.XtrAnswersNegatedField := by
  intro res buf s
  refine ⟨answers_xtr, fun hres hs hshort => ?_, fun hres => ?_⟩
  · rw [answers_iff, evalInstr, evalXtr_eq_codeOf hres, if_pos ⟨hs, hshort⟩]
    rfl
  · rw [answers_iff, evalInstr, evalXtr, (Resolution.ofField?_eq_none_iff res).mpr hres]
    rfl

/-- Settles O11: an answer gives its code back, and the code its data field. -/
theorem xtrCodeSetAndInjectivity : Obligations.XtrCodeSetAndInjectivity := by
  intro res hres
  obtain ⟨r, hr⟩ := Resolution.exists_of_legal hres
  have hbits := Resolution.toNat_of_ofField? hr
  have hfits (b : Buffer) : -(2 ^ 18 : Int) ≤ codeOf res.toNat b ∧ codeOf res.toNat b < 2 ^ 18 := by
    rw [hbits, ← outputCode_eq_codeOf]
    have := outputCode_fits r b
    omega
  have hxtr (b : Buffer) {s : State} (hs : s.config.strictLen = false) :=
    answers_xtr (buf := b) hres fun hstrict => absurd hstrict (hs ▸ Bool.false_ne_true)
  refine ⟨fun code => ?_, fun s b c word hs hb hc => ?_⟩
  · rw [hbits, ← exists_codeOf_eq_iff, ← hbits]
    constructor
    · rintro ⟨hlo, hhi, s, b, hs, hlen, hword⟩
      exact ⟨b, hlen, twosComplement_word_inj (by decide) (hfits b) ⟨hlo, hhi⟩
        (answers_unique (hxtr b hs) hword)⟩
    · rintro ⟨b, hlen, rfl⟩
      exact ⟨(hfits b).1, (hfits b).2, State.reset, b, rfl, hlen, hxtr b rfl⟩
  · have hcode := twosComplement_word_inj (w := 18) (by decide) (hfits b) (hfits c)
      ((answers_unique (hxtr b hs) hb).trans (answers_unique (hxtr c hs) hc).symm)
    rw [← natAbs_codeOf, ← natAbs_codeOf, hcode]

/-- Settles O9: the byte count of each resolution, and the refusal of every other field. -/
theorem bcntAnswersFrameLength : Obligations.BcntAnswersFrameLength := by
  intro res s
  rw [answers_iff, evalInstr, evalBcnt]
  cases hr : Resolution.ofField? res with
  | none =>
    have hres := (Resolution.ofField?_eq_none_iff res).mp hr
    rw [if_neg fun h18 => hres (by simp [h18]),
      if_neg fun hmem => hres (List.mem_append_left [18] hmem)]
    rfl
  | some r =>
    rw [Resolution.toNat_of_ofField? hr]
    cases r <;> rfl

end Sys2Proof.Machine
end

section
/-! The voltage (`43_voltage.md`): the scale table as shifted thousands (rule R65), the Q9 product as
the exact rational and the answer of VOLT (rule R66), the floating-point formula (rule R67), and the
bounds (rule R68).  Two facts about the table carry the rest: an entry times its gain divisor is the
entry at gain x1, and that one is 512 times the LSB. -/

namespace Sys2Proof

open Sys2Proof.Machine

/-! ### A gain and its `GAIN` field -/

theorem Gain.toNat_of_ofField? {f : BitVec 4} {g : Gain} (h : Gain.ofField? f = some g) :
    f.toNat = gainDivisor g := by
  rw [← Gain.field_of_ofField? f g h, Gain.toNat_field, gainDivisor_eq_two_pow_index]

/-- The legal `GAIN` values are the fields of the four gains (rule R41). -/
theorem Gain.exists_of_legal {f : BitVec 4} (h : f.toNat ∈ [1, 2, 4, 8]) :
    ∃ g, Gain.ofField? f = some g :=
  Option.ne_none_iff_exists'.mp fun hnone => (Gain.ofField?_eq_none_iff f).mp hnone h

end Sys2Proof

namespace Sys2Proof.Machine

open Sys2Proof.Statements

/-! ### The scale table -/

theorem scaleQ9_mul_gainDivisor (r : Resolution) (g : Gain) :
    scaleQ9 r g * gainDivisor g = scaleQ9 r .x1 := by
  cases r <;> cases g <;> rfl

theorem cast_scaleQ9_x1 (r : Resolution) : (scaleQ9 r .x1 : Rat) = 512 * lsbMicrovolts r := by
  cases r <;> norm_num [scaleQ9, lsbMicrovolts]

theorem cast_gainDivisor_ne_zero (g : Gain) : (gainDivisor g : Rat) ≠ 0 := by
  cases g <;> norm_num [gainDivisor]

/-- Rule R65: an entry stands for the LSB over the gain divisor. -/
theorem cast_scaleQ9 (r : Resolution) (g : Gain) :
    (scaleQ9 r g : Rat) = 512 * lsbMicrovolts r / gainDivisor g := by
  rw [eq_div_iff (cast_gainDivisor_ne_zero g), ← cast_scaleQ9_x1, ← scaleQ9_mul_gainDivisor r g]
  push_cast
  rfl

/-- Rule R65: an entry is 1000 shifted by `9 - 2k - g`. -/
theorem scaleQ9_eq_scaleOf (r : Resolution) (g : Gain) :
    scaleQ9 r g = scaleOf r.bits g.index := by
  cases r <;> cases g <;> rfl

/-! ### The voltage -/

/-- Rule R66: the Q9 integer over 512 is the exact rational. -/
theorem microVolt_eq_voltageQ9_div (r : Resolution) (g : Gain) (code : Int) :
    microVolt r g code = voltageQ9 r g code / 512 := by
  rw [microVolt, voltageQ9, Int.cast_mul, cast_scaleQ9]
  ring

/-- The gain divides the voltage at gain x1. -/
theorem voltageQ9_mul_gainDivisor (r : Resolution) (g : Gain) (code : Int) :
    voltageQ9 r g code * gainDivisor g = voltageQ9 r .x1 code := by
  rw [voltageQ9, mul_assoc, scaleQ9_mul_gainDivisor, voltageQ9]

/-- Rule R68 (a): the largest code magnitude times the largest scale. -/
theorem natAbs_voltageQ9_le (r : Resolution) (g : Gain) {code : Int} (h : code.natAbs ≤ 2 ^ 18) :
    (voltageQ9 r g code).natAbs ≤ 134217728000 := by
  have hscale : (scaleQ9 r g).natAbs ≤ 512000 := by
    have := scaleQ9_bounds r g
    omega
  rw [voltageQ9, Int.natAbs_mul]
  exact Nat.mul_le_mul h hscale

theorem natAbs_toInt_le (code : BitVec 19) : code.toInt.natAbs ≤ 2 ^ 18 := by
  have hlo := code.le_toInt
  have hhi := code.toInt_lt
  omega

theorem voltageQ9_mono (r : Resolution) (g : Gain) {a b : Int} (h : a ≤ b) :
    voltageQ9 r g a ≤ voltageQ9 r g b :=
  mul_le_mul_of_nonneg_right h (scaleQ9_bounds r g).1.le

/-! ### The answers of VOLT -/

/-- VOLT on legal fields answers the product in Q9, in 38 bits (rules R44, R66). -/
theorem answers_volt {res : BitVec 5} {gain : BitVec 4} {r : Resolution} {g : Gain}
    (hr : Resolution.ofField? res = some r) (hg : Gain.ofField? gain = some g) (code : BitVec 19)
    (s : State) :
    Answers (.volt res gain code) s
      (BitVec.ofNat 64 (twosComplement 38 (voltageQ9 r g code.toInt))) := by
  apply answers_of_responseOf
  simp only [evalInstr, evalVolt, hr, hg]
  exact (okResponse_of_payloadOf (by decide) rfl).trans (setWidth_ofInt_eq_twosComplement 38 64 _)

/-- VOLT refuses a field outside its enumeration (rule R66). -/
theorem evalVolt_of_illegal {res : BitVec 5} {gain : BitVec 4}
    (h : res.toNat ∉ [12, 14, 16, 18] ∨ gain.toNat ∉ [1, 2, 4, 8]) (code : BitVec 19) :
    evalVolt res gain code = .error .invalidParameter := by
  rw [← Resolution.ofField?_eq_none_iff, ← Gain.ofField?_eq_none_iff] at h
  unfold evalVolt
  obtain hr | hg := h
  · rw [hr]
  · rw [hg]
    cases Resolution.ofField? res <;> rfl

/-- The row of the LSB table of a legal `RES` (rule R63). -/
theorem lsbMicrovolts_of_row {r : Resolution} {lsb : Rat}
    (h : (r.bits, lsb) ∈ [(12, (1000 : Rat)), (14, 250), (16, 125 / 2), (18, 125 / 8)]) :
    lsb = lsbMicrovolts r := by
  cases r <;> simpa [Resolution.bits, lsbMicrovolts] using h

/-! ### The floating-point formula -/

/-- Rule R67: a voltage is a whole number of 512ths with at most 37 significant bits. -/
theorem isBinary64_microVolt (r : Resolution) (g : Gain) {code : Int} (h : code.natAbs ≤ 2 ^ 18) :
    IsBinary64 (microVolt r g code) := by
  refine ⟨voltageQ9 r g code, 9, ?_, le_rfl, ?_⟩
  · exact (natAbs_voltageQ9_le r g h).trans_lt (by norm_num)
  · rw [microVolt_eq_voltageQ9_div]
    norm_num

/-- Rule R67: dividing a code by a gain divisor is exact. -/
theorem isBinary64_div_gainDivisor (g : Gain) {code : Int} (h : code.natAbs ≤ 2 ^ 18) :
    IsBinary64 (code / gainDivisor g) := by
  refine ⟨code, g.index, h.trans_lt (by norm_num), ?_, ?_⟩
  · cases g <;> decide
  · rw [gainDivisor_eq_two_pow_index, Nat.cast_pow, Nat.cast_ofNat]

section
variable {rnd : Rat → Rat} (hrnd : ∀ q, IsBinary64 q → rnd q = q) (r : Resolution) (g : Gain)
  {code : Int} (h : code.natAbs ≤ 2 ^ 18)
include hrnd h

/-- The product is the voltage at gain x1. -/
theorem microVoltFloat_eq_microVolt : microVoltFloat rnd r g code = microVolt r g code := by
  have hproduct := isBinary64_microVolt r .x1 h
  rw [microVolt, gainDivisor, Nat.cast_one, div_one] at hproduct
  rw [microVoltFloat, hrnd _ hproduct]
  exact hrnd _ (isBinary64_microVolt r g h)

/-- The scale is the voltage of code 1. -/
theorem microVoltFloatScaleFirst_eq_microVolt :
    microVoltFloatScaleFirst rnd r g code = microVolt r g code := by
  have hscale := isBinary64_microVolt r g (code := 1) (by decide)
  rw [microVolt, Int.cast_one, one_mul] at hscale
  rw [microVoltFloatScaleFirst, hrnd _ hscale, ← mul_div_assoc]
  exact hrnd _ (isBinary64_microVolt r g h)

theorem microVoltFloatDivFirst_eq_microVolt :
    microVoltFloatDivFirst rnd r g code = microVolt r g code := by
  rw [microVoltFloatDivFirst, hrnd _ (isBinary64_div_gainDivisor g h), div_mul_eq_mul_div]
  exact hrnd _ (isBinary64_microVolt r g h)

end

/-! ### The bounds for the codes XTR produces -/

/-- The lowest and the highest code of rule R62. -/
theorem outputCode_bounds (r : Resolution) (b : Buffer) :
    -(2 ^ r.bits - 1 : Int) ≤ outputCode r b ∧ outputCode r b ≤ 2 ^ (r.bits - 1) - 1 := by
  have hlt := dataOf_lt r b
  have hpos : 0 < 2 ^ (r.bits - 1) := Nat.two_pow_pos _
  zify at hlt hpos
  rw [outputCode_eq_codeOf, codeOf]
  split
  case isTrue => omega
  case isFalse hsign =>
    zify at hsign
    omega

/-- The table of rule R68: the voltages of the lowest and the highest code. -/
theorem uvBounds_eq (r : Resolution) :
    uvBounds r = (voltageQ9 r .x1 (-(2 ^ r.bits - 1)), voltageQ9 r .x1 (2 ^ (r.bits - 1) - 1)) := by
  cases r <;> rfl

/-- The table of rule R68 fits 32 bits. -/
theorem uvBounds_fit (r : Resolution) :
    -(2 ^ 31 : Int) ≤ (uvBounds r).1 ∧ (uvBounds r).2 ≤ 2 ^ 31 - 1 := by
  cases r <;> decide

/-- Rule R68 (b), at any gain. -/
theorem voltageQ9_mul_gainDivisor_bounds (r : Resolution) (g : Gain) (b : Buffer) :
    (uvBounds r).1 ≤ voltageQ9 r g (outputCode r b) * gainDivisor g ∧
      voltageQ9 r g (outputCode r b) * gainDivisor g ≤ (uvBounds r).2 := by
  obtain ⟨hlo, hhi⟩ := outputCode_bounds r b
  rw [voltageQ9_mul_gainDivisor, uvBounds_eq]
  exact ⟨voltageQ9_mono r .x1 hlo, voltageQ9_mono r .x1 hhi⟩

/-- An integer is no farther from 0 than its product with a gain divisor. -/
theorem bounds_of_mul_gainDivisor (g : Gain) {v lo hi : Int} (hlo : lo ≤ v * gainDivisor g)
    (hhi : v * gainDivisor g ≤ hi) (hneg : lo ≤ 0) (hpos : 0 ≤ hi) : lo ≤ v ∧ v ≤ hi := by
  cases g <;> simp only [gainDivisor] at hlo hhi <;> omega

/-- Rule R62: both end codes are produced. -/
theorem exists_outputCode_ends (r : Resolution) :
    (∃ b, outputCode r b = -(2 ^ r.bits - 1 : Int)) ∧
      ∃ b, outputCode r b = (2 ^ (r.bits - 1) - 1 : Int) := by
  simp only [outputCode_eq_codeOf]
  constructor
  · obtain ⟨b, -, hb⟩ := (exists_codeOf_eq_iff r (-(2 ^ r.bits - 1))).mpr
      (.inr ⟨le_rfl, by cases r <;> decide⟩)
    exact ⟨b, hb⟩
  · obtain ⟨b, -, hb⟩ := (exists_codeOf_eq_iff r (2 ^ (r.bits - 1) - 1)).mpr
      (.inl ⟨by cases r <;> decide, sub_one_lt _⟩)
    exact ⟨b, hb⟩

/-! ### The statements -/

/-- Settles O15: both readings of an entry. -/
theorem scaleTableIsShiftedThousand : Obligations.ScaleTableIsShiftedThousand := by
  intro r g
  rw [gainDivisor_eq_two_pow_index, Nat.log2_two_pow, ← gainDivisor_eq_two_pow_index]
  exact ⟨scaleQ9_eq_scaleOf r g, cast_scaleQ9 r g⟩

/-- Settles O14: the product in Q9 is the witness, within 38 bits by rule R68 (a). -/
theorem voltAnswersExactProduct : Obligations.VoltAnswersExactProduct := by
  intro res gain code s
  constructor
  · rintro lsb _ hrow rfl hgain
    obtain ⟨r, hr⟩ := Resolution.exists_of_legal (List.mem_map_of_mem (f := Prod.fst) hrow)
    obtain ⟨g, hg⟩ := Gain.exists_of_legal hgain
    rw [Resolution.toNat_of_ofField? hr] at hrow
    rw [lsbMicrovolts_of_row hrow, Gain.toNat_of_ofField? hg]
    have hbound := natAbs_voltageQ9_le r g (natAbs_toInt_le code)
    exact ⟨voltageQ9 r g code.toInt, (microVolt_eq_voltageQ9_div r g _).symm, by omega, by omega,
      answers_volt hr hg code s⟩
  · intro hillegal
    rw [answers_iff, evalInstr, evalVolt_of_illegal hillegal]
    rfl

/-- Settles O16: each order rounds representable values only, so it gives the exact rational. -/
theorem floatingPointEqualsFixedPoint : Obligations.FloatingPointEqualsFixedPoint := by
  intro rnd hrnd r g code hlo hhi
  have hcode : code.natAbs ≤ 2 ^ 18 := by omega
  rw [microVoltFloat_eq_microVolt hrnd r g hcode,
    microVoltFloatScaleFirst_eq_microVolt hrnd r g hcode,
    microVoltFloatDivFirst_eq_microVolt hrnd r g hcode]
  have hexact := microVolt_eq_voltageQ9_div r g code
  exact ⟨hexact, hexact, hexact, hexact⟩

/-- Settles O17: part (a) by magnitudes; part (b) by the lowest and the highest code, which a buffer
each gives. -/
theorem voltageBounds : Obligations.VoltageBounds := by
  refine ⟨fun r g code => ⟨natAbs_voltageQ9_le r g (natAbs_toInt_le code), by norm_num⟩,
    fun r g buf => ?_, fun r => ?_⟩
  · obtain ⟨hlo, hhi⟩ := voltageQ9_mul_gainDivisor_bounds r g buf
    obtain ⟨hmin, hmax⟩ := uvBounds_fit r
    exact ⟨hlo, hhi,
      bounds_of_mul_gainDivisor g (hmin.trans hlo) (hhi.trans hmax) (by decide) (by decide)⟩
  · obtain ⟨⟨b, hb⟩, ⟨c, hc⟩⟩ := exists_outputCode_ends r
    rw [uvBounds_eq]
    exact ⟨⟨b, by rw [hb]⟩, ⟨c, by rw [hc]⟩⟩

end Sys2Proof.Machine
end

section
/-! The read pipeline (`44_pipeline.md`): the answer of PROC in plain numbers (rule R69), PROC as
the composition of the answers of DEC, XTR and VOLT (rule R70), and the host's sized read with the
reading it takes (rules R71, R84 steps 5 to 7). -/

namespace Sys2Proof.Machine

open Sys2Proof.Statements

/-! ### The reading of a buffer -/

/-- Rule R13: the gain's index DEC reads, from the two bits of the statements. -/
theorem index_gain_eq_bitOf (b : Byte) :
    (decodeConfig b).gain.index = bitOf b 0 + 2 * bitOf b 1 := by
  rw [index_gain_decodeConfig]
  unfold bitOf
  omega

/-- Rule R69: the model's scaled code is the one of the statements. -/
theorem uvQ9_readingOf {b : Buffer} (h : b.len.toNat ≤ 4) : (readingOf b).uvQ9 = readingUv b := by
  rw [readingOf, lastByte_eq_lastOf h, voltageQ9, outputCode_eq_codeOf, scaleQ9_eq_scaleOf,
    ← resolutionIn_eq_bits, index_gain_eq_bitOf, readingUv]

/-- The PROC row of rule R44: the `PARAMS` word above the 38-bit result, zeros above both. -/
theorem okResponse_reading (r : Reading) :
    okResponse (.reading r)
      = 0#7 ++ (ParamsWord.ofParameters r.params).toBits ++ BitVec.ofInt 38 r.uvQ9 := by
  rw [okResponse_of_payloadOf (by decide) rfl]
  apply BitVec.eq_of_toNat_eq
  rw [BitVec.toNat_setWidth_of_le (by decide)]
  simp only [toNat_append_eq_add, BitVec.toNat_ofNat, Nat.zero_mod, Nat.zero_mul, Nat.zero_add]

/-- The PROC row of rule R44 as a number. -/
theorem okResponse_readingOf {b : Buffer} (h : b.len.toNat ≤ 4) :
    okResponse (.reading (readingOf b))
      = BitVec.ofNat 64 (paramsIn (lastOf b) * 2 ^ 38 + twosComplement 38 (readingUv b)) := by
  have hparams : (readingOf b).params = decodeConfig (lastOf b) :=
    congrArg decodeConfig (lastByte_eq_lastOf h)
  have hnat : (okResponse (.reading (readingOf b))).toNat
      = paramsIn (lastOf b) * 2 ^ 38 + twosComplement 38 (readingUv b) := by
    rw [okResponse_reading, hparams, uvQ9_readingOf h, toNat_append_eq_add, toNat_append_eq_add,
      toNat_toBits_decodeConfig, BitVec.toNat_ofInt, BitVec.toNat_zero, Nat.zero_mul, Nat.zero_add]
    rfl
  rw [← hnat, BitVec.ofNat_toNat, BitVec.setWidth_eq]

/-- PROC past its length check answers the reading (rules R30, R69). -/
theorem answers_proc {buf : Buffer} {s : State} (hlen : buf.len.toNat ≤ 4)
    (hs : s.config.strictLen = true → ¬ procShort buf) :
    Answers (.proc buf) s (okResponse (.reading (readingOf buf))) := by
  rw [answers_iff, evalInstr, evalProc_eq hlen,
    if_neg fun ⟨hstrict, hshort⟩ => hs hstrict hshort]
  rfl

/-! ### The stages of the pipeline, field by field -/

/-- The `RES` field of a full `PARAMS` word on a port (rule R40). -/
theorem resField_ofParameters (p : Parameters) :
    ((ParamsWord.ofParameters p).toBits.setWidth 64).extractLsb' 9 5 = p.resolution.field := by
  rw [BitVec.extractLsb'_setWidth_of_le (by decide)]
  exact congrArg ParamsWord.res (ParamsWord.ofBits_toBits (.ofParameters p))

/-- The `GAIN` field of a full `PARAMS` word on a port (rule R40). -/
theorem gainField_ofParameters (p : Parameters) :
    ((ParamsWord.ofParameters p).toBits.setWidth 64).extractLsb' 5 4 = p.gain.field := by
  rw [BitVec.extractLsb'_setWidth_of_le (by decide)]
  exact congrArg ParamsWord.gain (ParamsWord.ofBits_toBits (.ofParameters p))

/-- XTR of a resolution without `STRICT_LEN` answers the code, in 19 bits (rules R44, R61). -/
theorem answers_xtr_field (r : Resolution) (buf : Buffer) {s : State}
    (hs : s.config.strictLen = false) :
    Answers (.xtr r.field buf) s ((BitVec.ofInt 19 (outputCode r buf)).setWidth 64) := by
  apply answers_of_responseOf
  simp only [evalInstr, evalXtr, Resolution.ofField?_field, tooShort, hs, Bool.false_and,
    Bool.false_eq_true, if_false]
  exact okResponse_of_payloadOf (by decide) rfl

/-- The 19-bit port gives every code back (rule R62). -/
theorem toInt_ofInt_outputCode (r : Resolution) (b : Buffer) :
    (BitVec.ofInt 19 (outputCode r b)).toInt = outputCode r b := by
  obtain ⟨hlo, hhi⟩ := outputCode_fits r b
  exact BitVec.toInt_ofInt_eq_self (by decide) (by omega) (by omega)

/-- VOLT of a resolution and a gain, on the code XTR answers (rules R44, R66). -/
theorem answers_volt_outputCode (r : Resolution) (g : Gain) (buf : Buffer) (s : State) :
    Answers (.volt r.field g.field (BitVec.ofInt 19 (outputCode r buf))) s
      ((BitVec.ofInt 38 (voltageQ9 r g (outputCode r buf))).setWidth 64) := by
  rw [setWidth_ofInt_eq_twosComplement]
  nth_rw 2 [← toInt_ofInt_outputCode r buf]
  exact answers_volt (Resolution.ofField?_field r) (Gain.ofField?_field g) _ s

/-! ### The host's reading -/

/-- The host gets the answer of the request it presents: the request's word decodes to it. -/
theorem ask_of_answers {i : Instr} {s : State} {r : Response} (hwf : i.wellFormed = true)
    (h : Answers i s r) : ask s.config i = r := by
  rw [ask, eval, decodeOfEncode i hwf]
  exact answers_iff.mp h

/-- Step 5 of rule R84: the unit sizes the read of a legal resolution. -/
theorem ask_bcnt_of_legal {res : BitVec 5} (hres : res.toNat ∈ [12, 14, 16, 18]) (c : Config) :
    statusField (ask c (.bcnt res)) = statusOk ∧
      countResult (ask c (.bcnt res)) = frameLength res.toNat := by
  obtain ⟨r, hr⟩ := Resolution.exists_of_legal hres
  have hask : ask c (.bcnt res) = okResponse (.byteCount (byteCount r)) := by
    rw [ask, eval, decodeOfEncode _ rfl]
    simp only [evalInstr, evalBcnt, hr, responseOf]
  rw [hask, Resolution.toNat_of_ofField? hr, frameLength_bits]
  exact ⟨statusField_okResponse _, by cases r <;> rfl⟩

/-- Steps 5 to 7 of rule R84 for a legal resolution, when the bytes read fit a buffer and PROC takes
them. -/
theorem takeReading_ok {ε : Type} {c : Config} {read : Byte → Nat → Except ε (List Byte)}
    {a : Byte} {res : BitVec 5} {bytes : List Byte} {buf : Buffer}
    (hres : res.toNat ∈ [12, 14, 16, 18])
    (hread : read a (frameLength res.toNat) = .ok bytes) (hbuf : Buffer.ofBytes? bytes = some buf)
    (hproc : statusField (ask c (.proc buf)) = statusOk) :
    takeReading c read a res = .ok (ask c (.proc buf)) := by
  obtain ⟨hstatus, hcount⟩ := ask_bcnt_of_legal hres c
  simp only [takeReading, hstatus, hcount, hread, hbuf, hproc, if_true]

/-! ### The statements -/

/-- Settles O18: past the length check of rule R30 the answer is the reading, written out in plain
numbers. -/
theorem procAnswersReading : Obligations.ProcAnswersReading := by
  intro buf s hlen
  refine ⟨fun hs => ?_,
    fun hs => (answers_of_length_check (i := .proc buf) hs (evalProc_eq hlen)).1⟩
  rw [← okResponse_readingOf hlen]
  exact answers_proc hlen hs

/-- Settles O19: each stage's answer carries the fields the next one takes, and the PROC word is the
fields of DEC above those of VOLT. -/
theorem procComposesDecXtrVolt : Obligations.ProcComposesDecXtrVolt := by
  intro buf s hlen hs
  have hdec := answers_dec (lastOf buf) s
  have hproc := answers_proc hlen fun hstrict => absurd hstrict (hs ▸ Bool.false_ne_true)
  have henc := answers_enc_ofParameters (decodeConfig (lastOf buf)) s
  rw [okResponse_reading, readingOf, lastByte_eq_lastOf hlen] at hproc
  rw [encodeParameters_decodeConfig] at henc
  generalize decodeConfig (lastOf buf) = p at hdec hproc henc
  have hxtr := answers_xtr_field p.resolution buf hs
  have hvolt := answers_volt_outputCode p.resolution p.gain buf s
  refine ⟨_, (BitVec.ofInt 19 (outputCode p.resolution buf)).setWidth 64,
    (BitVec.ofInt 38 (voltageQ9 p.resolution p.gain (outputCode p.resolution buf))).setWidth 64,
    hdec, ?_⟩
  rw [resField_ofParameters, gainField_ofParameters, field_setWidth _ (by decide),
    field_setWidth _ (by decide), field_setWidth _ (by decide), ParamsWord.ofBits_toBits]
  exact ⟨hxtr, hvolt, hproc, henc⟩

/-- Settles O44: the host reads as many bytes as BCNT answers, and the reading is the answer of PROC
to the bytes it gets. -/
theorem hostReadingIsProcOfTheBytesRead : Obligations.HostReadingIsProcOfTheBytesRead := by
  intro ε s read a res bytes buf r hres hread hbuf hproc hstatus
  obtain rfl := ask_of_answers (i := .proc buf) (Buffer.wellFormed_of_ofBytes? hbuf) hproc
  exact takeReading_ok hres hread hbuf hstatus

end Sys2Proof.Machine
end

section
/-! The exceptions (`60_exceptions.md`): the causes of each error condition, operation by operation
(rules R73, R74); which request words are illegal (rules R45, R75) and that this check comes first
(rule R76); what an error response carries (rule R77); and the host's bus errors (rule R81). -/

namespace Sys2Proof

open Sys2Proof.Statements Sys2Proof.Machine

/-! ### Illegal words -/

theorem Opcode.bits_ofBits : ∀ b : BitVec 3, (Opcode.ofBits b).bits = b := by
  decide

theorem Opcode.ofBits_bits (op : Opcode) : Opcode.ofBits op.bits = op := by
  cases op <;> rfl

theorem Opcode.toNat_bits_inj {a b : Opcode} : a.bits.toNat = b.bits.toNat ↔ a = b := by
  rw [← BitVec.toNat_eq]
  exact (Function.LeftInverse.injective Opcode.ofBits_bits).eq_iff

/-- The operation code of a word as the plain number of the statements (rule R31). -/
theorem opOf_eq_toNat_bits (w : Request) : opOf w = (opcodeOf w).bits.toNat := by
  have hw : w.toNat < 2 ^ 48 := w.isLt
  rw [opcodeOf, Opcode.bits_ofBits, BitVec.extractLsb'_toNat, Nat.shiftRight_eq_div_pow, opOf]
  omega

theorem opOf_eq_iff {w : Request} {op : Opcode} : opOf w = op.bits.toNat ↔ opcodeOf w = op := by
  rw [opOf_eq_toNat_bits, Opcode.toNat_bits_inj]

/-- `LEN` as the plain number of the statements (rules R37, R39). -/
theorem lenOf_eq_toNat_len (w : Request) : lenOf w = (bufferOf w).len.toNat := by
  rw [bufferOf, BitVec.extractLsb'_toNat, Nat.shiftRight_eq_div_pow, lenOf]

/-- `RES` of format X as the plain number of the statements (rule R37). -/
theorem xtrResOf_eq_toNat_field (w : Request) : xtrResOf w = (w.extractLsb' 35 5).toNat := by
  rw [BitVec.extractLsb'_toNat, Nat.shiftRight_eq_div_pow, xtrResOf]

/-- Rule R45 (b): the table of the formats names each operation's own mask and match. -/
theorem exists_formatRow_iff {w : Request} {op : Opcode} (h : op ≠ .reserved) :
    (∃ row ∈ formatRows, row.1 = op.bits.toNat ∧ w &&& row.2.2 ≠ row.2.1) ↔
      w &&& op.maskWord ≠ op.matchWord := by
  cases op with
  | reserved => exact absurd rfl h
  | addr | enc | dec | bcnt | xtr | volt | proc =>
    simp [formatRows, Opcode.bits, Opcode.maskWord, Opcode.matchWord]

/-- Rule R45 (c): only the two formats with a `LEN` field can fail on their operands. -/
theorem exists_decodeOperands_iff {op : Opcode} {w : Request} :
    (∃ i, decodeOperands op w = .ok i) ↔ ¬ ((op = .xtr ∨ op = .proc) ∧ 4 < lenOf w) := by
  rw [lenOf_eq_toNat_len, ← Nat.not_le]
  cases op with
  | addr | enc | dec | bcnt | volt | reserved => simp [decodeOperands]
  | xtr | proc =>
    by_cases hlen : (bufferOf w).len.toNat ≤ 4 <;>
      simp [decodeOperands, Buffer.wellFormed, Config.bufCap, hlen]

/-- Rule R45: a word is illegal when it has the reserved operation code or the decoder rejects it. -/
theorem illegalWord_iff {w : Request} :
    IllegalWord w ↔ opcodeOf w = .reserved ∨ ¬ ∃ i, decode w = .ok i := by
  have h7 : opOf w = 7 ↔ opcodeOf w = .reserved := opOf_eq_iff (op := .reserved)
  have h4 : opOf w = 4 ↔ opcodeOf w = .xtr := opOf_eq_iff (op := .xtr)
  have h6 : opOf w = 6 ↔ opcodeOf w = .proc := opOf_eq_iff (op := .proc)
  simp only [IllegalWord, h7, h4, h6, decode_eq_ok_iff, exists_and_left,
    exists_decodeOperands_iff]
  by_cases hop : opcodeOf w = .reserved
  · simp only [hop, true_or]
  · rw [opOf_eq_toNat_bits, exists_formatRow_iff hop, not_and_or, not_not]

/-- A decoded instruction has the word's operation code. -/
theorem opcodeOf_eq_of_decode {w : Request} {i : Instr} (h : decode w = .ok i) :
    opcodeOf w = opcodeOfInstr i := by
  rw [← (encodeOfDecode w i h).1, opcodeOf_encode]

theorem isReserved_iff {i : Instr} : IsReserved i ↔ opcodeOfInstr i = .reserved := by
  cases i <;> simp [IsReserved, opcodeOfInstr]

/-- The operands of a word that decodes to XTR (rule R37). -/
theorem eq_xtr_of_decode {w : Request} {i : Instr} (hop : opOf w = 4) (h : decode w = .ok i) :
    i = .xtr (w.extractLsb' 35 5) (bufferOf w) := by
  have hxtr : opcodeOf w = .xtr := opOf_eq_iff.mp hop
  have hoperands := (decode_eq_ok_iff.mp h).2
  rw [hxtr, decodeOperands] at hoperands
  split at hoperands
  · exact (Except.ok.inj hoperands).symm
  · cases hoperands

/-! ### Typed fields -/

theorem Resolution.legal_field (r : Resolution) : r.field.toNat ∈ [12, 14, 16, 18] := by
  cases r <;> decide

theorem Gain.legal_field (g : Gain) : g.field.toNat ∈ [1, 2, 4, 8] := by
  cases g <;> decide

end Sys2Proof

namespace Sys2Proof.Machine

open Sys2Proof.Statements

/-! ### The causes of each error -/

/-- What rules R73 to R75 list for each error condition. -/
def ErrorCause (c : Config) (i : Instr) : Fault → Prop
  | .invalidParameter => InvalidParameterCause i
  | .invalidBufferLength => c.strictLen = true ∧ InvalidBufferLengthCause i
  | .illegalRequest => IsReserved i

/-- An evaluation with one check fails with the error of that check. -/
theorem ite_error_eq_error_iff {P : Prop} [Decidable P] {f g : Fault} {result : Result} :
    (if P then .error g else .ok result : Except Fault Result) = .error f ↔ f = g ∧ P := by
  by_cases hP : P <;> simp [hP, eq_comm (a := f)]

theorem evalEnc_eq_error_iff {p : ParamsWord} {f : Fault} :
    evalEnc p = .error f ↔ f = .invalidParameter ∧ encInvalid p := by
  rw [encInvalid_iff]
  obtain ⟨c, g, r, hc, hg, hr, hfill⟩ | ⟨hnone, hfill⟩ := p.fill_cases
  · simp [evalEnc, hfill, hc, hg, hr]
  · simp [evalEnc, hfill, hnone, eq_comm (a := f)]

theorem evalBcnt_eq_error_iff {res : BitVec 5} {f : Fault} :
    evalBcnt res = .error f ↔ f = .invalidParameter ∧ res.toNat ∉ [12, 14, 16, 18] := by
  rw [← Resolution.ofField?_eq_none_iff, evalBcnt]
  cases Resolution.ofField? res <;> simp [eq_comm (a := f)]

theorem evalXtr_eq_error_iff {c : Config} {res : BitVec 5} {buf : Buffer} {f : Fault} :
    evalXtr c res buf = .error f ↔
      (f = .invalidParameter ∧ res.toNat ∉ [12, 14, 16, 18]) ∨
      (f = .invalidBufferLength ∧ c.strictLen = true ∧ res.toNat ∈ [12, 14, 16, 18] ∧
        buf.len.toNat < frameLength res.toNat) := by
  by_cases hres : res.toNat ∈ [12, 14, 16, 18]
  · rw [evalXtr_eq_codeOf hres, ite_error_eq_error_iff]
    simp only [hres, not_true_eq_false, and_false, false_or, true_and]
  · rw [evalXtr, (Resolution.ofField?_eq_none_iff res).mpr hres]
    simp [hres, eq_comm (a := f)]

theorem evalVolt_eq_error_iff {res : BitVec 5} {gain : BitVec 4} {code : BitVec 19} {f : Fault} :
    evalVolt res gain code = .error f ↔
      f = .invalidParameter ∧ (res.toNat ∉ [12, 14, 16, 18] ∨ gain.toNat ∉ [1, 2, 4, 8]) := by
  rw [← Resolution.ofField?_eq_none_iff, ← Gain.ofField?_eq_none_iff, evalVolt]
  cases Resolution.ofField? res <;> cases Gain.ofField? gain <;> simp [eq_comm (a := f)]

theorem evalProc_eq_error_iff {c : Config} {buf : Buffer} (hlen : buf.len.toNat ≤ 4) {f : Fault} :
    evalProc c buf = .error f ↔
      f = .invalidBufferLength ∧ c.strictLen = true ∧ procShort buf := by
  rw [evalProc_eq hlen, ite_error_eq_error_iff]

/-- Rules R73 to R75: an evaluation ends with an error exactly for its causes. -/
theorem evalInstr_eq_error_iff {c : Config} {i : Instr} (h : i.wellFormed = true) (f : Fault) :
    evalInstr c i = .error f ↔ ErrorCause c i f := by
  cases i with
  | addr | enc | dec | bcnt | xtr | volt | reservedOp7 =>
    cases f <;> simp [evalInstr, evalAddr, evalDec, evalReservedOp7, evalEnc_eq_error_iff,
      evalBcnt_eq_error_iff, evalXtr_eq_error_iff, evalVolt_eq_error_iff, ErrorCause,
      InvalidParameterCause, InvalidBufferLengthCause, IsReserved]
  | proc buf =>
    have hlen : buf.len.toNat ≤ 4 := of_decide_eq_true h
    cases f <;> simp [evalInstr, evalProc_eq_error_iff hlen, ErrorCause, InvalidParameterCause,
      InvalidBufferLengthCause, IsReserved]

/-- Each error condition has a status of its own (rule R43). -/
theorem statusField_responseOf_eq_statusOfFault_iff {e : Except Fault Result} {f : Fault} :
    statusField (responseOf e) = statusOfFault f ↔ e = .error f := by
  cases e with
  | ok r => cases f <;> simp [responseOf, statusOfFault]
  | error g => cases f <;> cases g <;> simp [responseOf, statusOfFault]

/-- Rules R73 to R75 at the port: a response has an error's status exactly for its causes. -/
theorem statusField_evalInstr_iff {c : Config} {i : Instr} (h : i.wellFormed = true) (f : Fault) :
    statusField (responseOf (evalInstr c i)) = statusOfFault f ↔ ErrorCause c i f :=
  statusField_responseOf_eq_statusOfFault_iff.trans (evalInstr_eq_error_iff h f)

/-- Rule R73 on typed operands: every field is inside its enumeration. -/
theorem evalInstr_typed_ne_invalidParameter {c : Config} {p : Parameters} {buf : Buffer}
    {code : BitVec 19} {i : Instr}
    (h : i ∈ [Instr.enc (ParamsWord.ofParameters p), .bcnt p.resolution.field,
      .xtr p.resolution.field buf, .volt p.resolution.field p.gain.field code]) :
    evalInstr c i ≠ .error .invalidParameter := by
  intro herr
  simp only [List.mem_cons, List.not_mem_nil, or_false] at h
  obtain rfl | rfl | rfl | rfl := h
  · rw [evalInstr, evalEnc_ofParameters] at herr
    cases herr
  · obtain ⟨-, hres⟩ := evalBcnt_eq_error_iff.mp herr
    exact hres p.resolution.legal_field
  · obtain ⟨-, hres⟩ | ⟨hf, -⟩ := evalXtr_eq_error_iff.mp herr
    · exact hres p.resolution.legal_field
    · cases hf
  · obtain ⟨-, hres | hgain⟩ := evalVolt_eq_error_iff.mp herr
    · exact hres p.resolution.legal_field
    · exact hgain p.gain.legal_field

/-! ### The response to a request word -/

/-- Everything the evaluation of a request word can be (rules R45, R76): the check of the word comes
first, and a word that passes it is an operation's. -/
theorem eval_cases (c : Config) (w : Request) :
    (IllegalWord w ∧ eval c w = illegalRequestWord) ∨
    (¬ IllegalWord w ∧ ∃ i, decode w = .ok i ∧ i.wellFormed = true ∧ ¬ IsReserved i ∧
      eval c w = responseOf (evalInstr c i)) := by
  rw [illegalWord_iff]
  cases hd : decode w with
  | error cause => exact .inl ⟨.inr nofun, by rw [eval, hd]; rfl⟩
  | ok i =>
    have heval : eval c w = responseOf (evalInstr c i) := by rw [eval, hd]
    rw [opcodeOf_eq_of_decode hd, ← isReserved_iff, heval]
    by_cases hres : IsReserved i
    · refine .inl ⟨.inl hres, ?_⟩
      cases i with
      | reservedOp7 ignored => rfl
      | addr | enc | dec | bcnt | xtr | volt | proc => exact hres.elim
    · exact .inr ⟨by simp [hres], i, rfl, (encodeOfDecode w i hd).2, hres, rfl⟩

/-! ### The host's bus errors -/

/-- Step 1 of rule R84: the host's address is that of the strap `a1` (rule R51). -/
theorem byteResult_ask_addr (c : Config) (a0 a1 a2 : Bool) :
    byteResult (ask c (.addr a0 a1 a2)) = if a1 then 0x0f#8 else 0x0d#8 := by
  have hask : ask c (.addr a0 a1 a2) = (slaveAddress a0 a1 a2).setWidth 64 :=
    ask_of_answers (s := { State.reset with config := c }) rfl (answers_addr a0 a1 a2 _)
  rw [hask, byteResult, field_setWidth _ (by decide), slaveAddress_eq_ite]

/-! ### The statements -/

/-- Settles O24: an operation answers the response of its evaluation, which ends with an error exactly
for that error's causes; a typed field is a legal one. -/
theorem statusHasExactlyItsCauses : Obligations.StatusHasExactlyItsCauses := by
  refine ⟨fun i s hwf => ?_, fun p buf code s i r hi hr => ?_⟩
  · have hstatus := statusField_evalInstr_iff (c := s.config) hwf
    exact ⟨_, answers_iff.mpr rfl, hstatus .invalidParameter, hstatus .invalidBufferLength,
      hstatus .illegalRequest⟩
  · obtain rfl := answers_iff.mp hr
    exact fun hstatus => evalInstr_typed_ne_invalidParameter hi
      ((statusField_responseOf_eq_statusOfFault_iff (f := .invalidParameter)).mp hstatus)

/-- Settles O26: a legal word is served as an operation other than the reserved one, and only that one's
meaning ends with `IllegalRequest`. -/
theorem illegalWordsAreRefusedExactly : Obligations.IllegalWordsAreRefusedExactly := by
  intro s w rest hr
  refine ⟨_, step_eq_next_eval hr, ?_⟩
  obtain ⟨hill, heval⟩ | ⟨hlegal, i, -, hwf, hres, heval⟩ := eval_cases s.config w
  · rw [heval]
    exact ⟨iff_of_true (by decide) hill, fun _ => rfl⟩
  · have hstatus := statusField_evalInstr_iff (c := s.config) hwf .illegalRequest
    rw [heval]
    exact ⟨iff_of_false (fun h => hres (hstatus.mp h)) hlegal, fun hill => absurd hill hlegal⟩

/-- Settles O27: the check of the word comes first, and a legal XTR word is answered by XTR's two checks
in their order. -/
theorem errorPriority : Obligations.ErrorPriority := by
  intro s w rest hr
  refine ⟨_, step_eq_next_eval hr, ?_⟩
  obtain ⟨hill, heval⟩ | ⟨hlegal, i, hd, -, -, heval⟩ := eval_cases s.config w
  · exact ⟨fun _ => heval, fun h => absurd hill h, fun h => absurd hill h⟩
  · rw [heval, lenOf_eq_toNat_len, xtrResOf_eq_toNat_field]
    refine ⟨fun h => absurd h hlegal, fun _ hop hres => ?_, fun _ hop hres hs hshort => ?_⟩
    · obtain rfl := eq_xtr_of_decode hop hd
      obtain ⟨-, -, hparameter⟩ := xtrAnswersNegatedField (w.extractLsb' 35 5) (bufferOf w) s
      exact answers_iff.mp (hparameter hres)
    · obtain rfl := eq_xtr_of_decode hop hd
      obtain ⟨-, hlength, -⟩ := xtrAnswersNegatedField (w.extractLsb' 35 5) (bufferOf w) s
      exact answers_iff.mp (hlength hres hs hshort)

/-- Settles O38: a step gives one response, and every response of the unit is an allowed one. -/
theorem errorResponseCarriesNothingElse : Obligations.ErrorResponseCarriesNothingElse := by
  intro s w rest hr
  obtain ⟨hpayload, -, -⟩ := responseAllowed_eval s.config w
  exact ⟨_, step_eq_next_eval hr, hpayload⟩

/-- Settles O42: the host calls the transaction it was given, at the strap address or with the unit's
byte count, and passes its error on. -/
theorem ioErrorPropagatesUnchanged : Obligations.IoErrorPropagatesUnchanged := by
  intro ε e s
  refine ⟨fun write a0 a1 a2 p r hr hok hwrite => ?_, fun read a res hres hread => ?_⟩
  · have henc : ask s.config (.enc p) = r := ask_of_answers rfl hr
    have hstatus : statusField r = statusOk := hok
    have hwrite' : write (if a1 then 0x0f#8 else 0x0d#8) [byteResult r] = .error e := hwrite
    simp only [configureConverter, henc, hstatus, byteResult_ask_addr, hwrite', if_true]
  · obtain ⟨hstatus, hcount⟩ := ask_bcnt_of_legal hres s.config
    simp only [takeReading, hstatus, hcount, hread, if_true]

/-- Settles O23: the reserved operation's evaluation looks at none of its bits. -/
theorem reservedOpAnswersIllegalRequest : Obligations.ReservedOpAnswersIllegalRequest :=
  fun _ _ => answers_of_responseOf rfl

/-- Settles O32: with no request presented a step is idle. -/
theorem stepWithoutRequestIsIdle : Obligations.StepWithoutRequestIsIdle :=
  fun _ => step_nil

end Sys2Proof.Machine
end

section
/-! The host's sequence and its checks (`70_reset_and_hazards.md`): the ready flag in the PROC word
(rule R86), the middle byte of a long buffer (rule R85), the two checks on a reading, and the boot and
use sequence (rule R84) from its transactions up to a whole session. -/

namespace Sys2Proof

open Sys2Proof.Machine Sys2Proof.Statements

/-! ### The ready flag in the operand words -/

/-- `RDY` is bit 3 of the `PARAMS` word (rule R40). -/
theorem ParamsWord.toBits_not_rdy (p : ParamsWord) :
    ({ p with rdy := !p.rdy } : ParamsWord).toBits = p.toBits ^^^ 0b1000#19 := by
  have hmask : 0b1000#19 = 0#15 ++ BitVec.ofBool true ++ 0#3 := by decide
  rw [hmask, ParamsWord.toBits, ParamsWord.toBits, BitVec.xor_append, BitVec.xor_append,
    BitVec.xor_zero, BitVec.xor_zero, BitVec.ofBool_xor_ofBool, Bool.xor_true]

/-- The ready flag is bit 7 of the configuration byte, and no other field has that bit (rule R13). -/
theorem decodeConfig_xor_ready (b : Byte) :
    decodeConfig (b ^^^ 0x80#8) =
      { decodeConfig b with readyOrConverting := !(decodeConfig b).readyOrConverting } := by
  have hbit (i : Nat) : (b ^^^ 0x80#8).getLsbD i = (b.getLsbD i ^^ (0x80#8).getLsbD i) :=
    BitVec.getLsbD_xor
  have hlow : ∀ i < 7, (0x80#8).getLsbD i = false := by decide
  simp only [decodeConfig, hbit, hlow, Nat.reduceLT, Bool.xor_false]
  congr 1
  exact Bool.xor_true _

theorem resolutionIn_xor_ready (b : Byte) : resolutionIn (b ^^^ 0x80#8) = resolutionIn b := by
  rw [resolutionIn_eq_bits, decodeConfig_xor_ready, ← resolutionIn_eq_bits]

end Sys2Proof

namespace Sys2Proof.Machine

open Sys2Proof.Statements

/-- `RDY` is bit 41 of the PROC response, bit 3 of its `PARAMS` word (rule R44). -/
theorem okResponse_reading_not_ready (p : Parameters) (uv : Int) :
    okResponse (.reading { params := { p with readyOrConverting := !p.readyOrConverting },
                           uvQ9 := uv }) =
      okResponse (.reading { params := p, uvQ9 := uv }) ^^^ 0x200_0000_0000#64 := by
  have hmask : 0x200_0000_0000#64 = 0#7 ++ 0b1000#19 ++ 0#38 := by decide
  have hbits := ParamsWord.toBits_not_rdy (.ofParameters p)
  rw [okResponse_reading, okResponse_reading, hmask, BitVec.xor_append, BitVec.xor_append,
    BitVec.xor_zero, BitVec.xor_zero, ← hbits]
  rfl

/-! ### What a reading looks at -/

theorem lastByte_of_length (b : Buffer) {n : Nat} (h : b.len.toNat = n + 1) :
    b.lastByte = b.lane n := by
  rw [Buffer.lastByte, if_pos (by omega), h]
  exact Buffer.read_of_lt (by omega)

/-- Up to 16 bits, `b[2]` is no data byte (rule R59). -/
theorem dataField_update_b2 {r : Resolution} (hr : r.bits ≠ 18) (b : Buffer) (x : Byte) :
    dataField r { b with b2 := x } = dataField r b := by
  cases r with
  | r12 | r14 | r16 => rfl
  | r18 => exact absurd rfl hr

/-- `b[3]` is never a data byte (rule R59). -/
theorem dataField_update_b3 (r : Resolution) (b : Buffer) (x : Byte) :
    dataField r { b with b3 := x } = dataField r b :=
  dataField_congr rfl rfl rfl

/-- The reading is a function of the last byte and of the data field it selects (rule R69). -/
theorem readingOf_congr {b c : Buffer} (hlast : c.lastByte = b.lastByte)
    (hdata : dataField (decodeConfig b.lastByte).resolution c
      = dataField (decodeConfig b.lastByte).resolution b) : readingOf c = readingOf b := by
  unfold readingOf
  rw [hlast, outputCode_congr hdata]

/-- With the ready flag of the last byte flipped, the reading differs in that flag only (rule R86). -/
theorem okResponse_readingOf_xor_ready {b c : Buffer} (hlast : c.lastByte = b.lastByte ^^^ 0x80#8)
    (hdata : dataField (decodeConfig b.lastByte).resolution c
      = dataField (decodeConfig b.lastByte).resolution b) :
    okResponse (.reading (readingOf c)) =
      okResponse (.reading (readingOf b)) ^^^ 0x200_0000_0000#64 := by
  unfold readingOf
  rw [hlast, decodeConfig_xor_ready, outputCode_congr hdata]
  exact okResponse_reading_not_ready _ _

/-- Four bytes are enough for every resolution (rule R30). -/
theorem not_procShort_of_four {b : Buffer} (h : b.len.toNat = 4) : ¬ procShort b := by
  unfold procShort frameLength
  split <;> omega

/-- Three bytes are enough up to 16 bits (rule R30). -/
theorem not_procShort_of_three {b : Buffer} (h : b.len.toNat = 3)
    (hres : resolutionIn b.lastByte ≠ 18) : ¬ procShort b := by
  rw [lastByte_eq_lastOf (by omega)] at hres
  unfold procShort frameLength
  rw [if_neg hres]
  omega

/-- PROC of two buffers whose last bytes differ in the ready flag and whose data fields are the same
(rule R86). -/
theorem answers_proc_xor_ready {b c : Buffer} (s : State) (hb : b.len.toNat ≤ 4)
    (hfull : ¬ procShort b) (hlen : c.len = b.len) (hlast : c.lastByte = b.lastByte ^^^ 0x80#8)
    (hdata : dataField (decodeConfig b.lastByte).resolution c
      = dataField (decodeConfig b.lastByte).resolution b) :
    ∃ r, statusField r = 0b00#2 ∧ Answers (.proc b) s r ∧
      Answers (.proc c) s (r ^^^ 0x200_0000_0000#64) := by
  have hc : c.len.toNat ≤ 4 := hlen ▸ hb
  have hfull' : ¬ procShort c := by
    rwa [procShort, ← lastByte_eq_lastOf hc, hlen, hlast, resolutionIn_xor_ready,
      lastByte_eq_lastOf hb]
  refine ⟨_, statusField_okResponse _, answers_proc hb fun _ => hfull, ?_⟩
  rw [← okResponse_readingOf_xor_ready hlast hdata]
  exact answers_proc hc fun _ => hfull'

/-- Settles O21: the flag is in the last byte, which is no data byte of a full frame. -/
theorem readyFlagGatesNothing : Obligations.ReadyFlagGatesNothing := by
  intro buf s
  refine ⟨fun hlen hres => ?_, fun hlen => ?_⟩
  · have hlast : buf.lastByte = buf.b2 := lastByte_of_length buf hlen
    rw [← hlast] at hres
    refine answers_proc_xor_ready s (by omega) (not_procShort_of_three hlen hres) rfl ?_
      (dataField_update_b2 (by rwa [← resolutionIn_eq_bits]) buf _)
    rw [hlast]
    exact lastByte_of_length { buf with b2 := buf.b2 ^^^ 0x80#8 } hlen
  · have hlast : buf.lastByte = buf.b3 := lastByte_of_length buf hlen
    refine answers_proc_xor_ready s hlen.le (not_procShort_of_four hlen) rfl ?_
      (dataField_update_b3 _ buf _)
    rw [hlast]
    exact lastByte_of_length { buf with b3 := buf.b3 ^^^ 0x80#8 } hlen

/-- Settles O22: the last byte is `b[3]`, and up to 16 bits the data field is `b[0]` and `b[1]`. -/
theorem procIgnoresMiddleByteOfLongBuffer : Obligations.ProcIgnoresMiddleByteOfLongBuffer := by
  intro buf x s hlen hres
  have hlast : buf.lastByte = buf.b3 := lastByte_of_length buf hlen
  have hlast' : ({ buf with b2 := x } : Buffer).lastByte = buf.b3 :=
    lastByte_of_length { buf with b2 := x } hlen
  have hreading : readingOf { buf with b2 := x } = readingOf buf := by
    refine readingOf_congr (hlast'.trans hlast.symm) (dataField_update_b2 ?_ buf x)
    rwa [hlast, ← resolutionIn_eq_bits]
  refine ⟨_, statusField_okResponse _,
    answers_proc hlen.le fun _ => not_procShort_of_four hlen, ?_⟩
  rw [← hreading]
  exact answers_proc (buf := { buf with b2 := x }) hlen.le fun _ => not_procShort_of_four hlen

/-! ### The host's checks -/

/-- The `PARAMS` word of a PROC response is that of its parameters (rule R44). -/
theorem readingParamsResult_okResponse (r : Reading) :
    readingParamsResult (okResponse (.reading r)) = ParamsWord.ofParameters r.params := by
  rw [readingParamsResult, okResponse_reading, field_append_middle, ParamsWord.ofBits_toBits]

/-- Settles O45: the checks compare two fields of the `PARAMS` word of the last byte. -/
theorem mismatchCheckComparesReportedResolution :
    Obligations.MismatchCheckComparesReportedResolution := by
  intro buf s res r hlen hs hr
  obtain rfl := answers_unique
    (answers_proc hlen fun hstrict => absurd hstrict (hs ▸ Bool.false_ne_true)) hr
  have hparams : readingParamsResult (okResponse (.reading (readingOf buf)))
      = .ofParameters (decodeConfig (lastOf buf)) := by
    rw [readingParamsResult_okResponse, readingOf, lastByte_eq_lastOf hlen]
  constructor
  · rw [reportedAsAsked, hparams, beq_iff_eq, eq_comm, ← field_resolution_decodeConfig,
      ← BitVec.toNat_eq]
    rfl
  · rw [isFresh, hparams, bitOf_eq_toNat_getLsbD, Bool.not_eq_true', Bool.toNat_eq_zero]
    rfl

/-! ### Configuring: steps 1 to 4 of rule R84 -/

section
variable {ε : Type} {s : State} {write : Byte → List Byte → Except ε Unit} {a0 a1 a2 : Bool}
  {p : ParamsWord} {r : Response} {address : Byte}

/-- A write that succeeds configures the converter. -/
theorem configureConverter_ok (hr : Answers (.enc p) s r) (hok : statusField r = statusOk)
    (haddress : byteResult (ask s.config (.addr a0 a1 a2)) = address)
    (hwrite : write address [byteResult r] = .ok ()) :
    configureConverter s.config write a0 a1 a2 p
      = .ok { address := address, cfg := byteResult r } := by
  have henc : ask s.config (.enc p) = r := ask_of_answers rfl hr
  simp only [configureConverter, henc, hok, haddress, hwrite, if_true]

/-- A refused parameter set is not written (log entry 11). -/
theorem configureConverter_refused (hr : Answers (.enc p) s r) (hbad : statusField r ≠ statusOk) :
    configureConverter s.config write a0 a1 a2 p = .error (.codecStatus (statusField r)) := by
  have henc : ask s.config (.enc p) = r := ask_of_answers rfl hr
  simp only [configureConverter, henc, hbad, if_false]

end

/-- Settles O43: the two answers of the write, and the status of a refused set. -/
theorem hostWritesTheEncodedByte : Obligations.HostWritesTheEncodedByte := by
  intro ε s write a0 a1 a2 p r hr
  refine ⟨fun hok => ?_, configureConverter_refused hr⟩
  cases hwrite : write (if a1 then 0x0f#8 else 0x0d#8) [r.extractLsb' 0 8] with
  | error e =>
    obtain ⟨hconfigure, -⟩ := ioErrorPropagatesUnchanged ε e s
    exact hconfigure write a0 a1 a2 p r hr hok hwrite
  | ok _ => exact configureConverter_ok hr hok (byteResult_ask_addr s.config a0 a1 a2) hwrite

/-! ### The resolution the host reads at -/

/-- ENC answers `OK` for legal operands only (rule R54). -/
theorem not_encInvalid_of_answers {p : ParamsWord} {s : State} {r : Response}
    (hr : Answers (.enc p) s r) (hok : statusField r = statusOk) : ¬ encInvalid p := by
  intro hbad
  obtain ⟨-, hinvalid⟩ := encAnswersFlagsOrInvalidParameter p s
  obtain rfl := answers_unique (hinvalid hbad) hr
  exact absurd hok (by decide)

theorem toNat_requestedRes (p : ParamsWord) :
    (requestedRes p).toNat = if p.pRes then p.res.toNat else 12 :=
  apply_ite BitVec.toNat _ _ _

/-- The resolution of a legal operand is legal; the default is (rule R53). -/
theorem requestedRes_legal {p : ParamsWord} (h : ¬ encInvalid p) :
    (requestedRes p).toNat ∈ [12, 14, 16, 18] := by
  rw [toNat_requestedRes]
  split
  case isTrue hpresent => exact not_not.mp fun hres => h (.inr (.inr ⟨hpresent, hres⟩))
  case isFalse => decide

/-! ### A session: steps 1 to 7 of rule R84 -/

section
variable {ε : Type} {s : State} {bus : Bus ε} {a0 a1 a2 : Bool} {p : ParamsWord} {r : Response}
  {past : List BusAction} {address : Byte} {res : BitVec 5} {n : Nat}

/-- The select and the write, once ENC has answered a byte. -/
theorem actionsAfterConfigure_ok (hr : Answers (.enc p) s r) (hok : statusField r = statusOk)
    (haddress : byteResult (ask s.config (.addr a0 a1 a2)) = address) :
    actionsAfterConfigure s.config a0 a1 a2 p past
      = past ++ [.select address, .write address [byteResult r]] := by
  have henc : ask s.config (.enc p) = r := ask_of_answers rfl hr
  simp only [actionsAfterConfigure, henc, hok, haddress, if_true]

/-- One reading of a legal resolution is one read of its frame length on the bus. -/
theorem actionsAfterReading_of_legal (hres : res.toNat ∈ [12, 14, 16, 18]) (c : Config) :
    actionsAfterReading c address res past
      = past ++ [.read address (frameLength res.toNat)] := by
  obtain ⟨hstatus, hcount⟩ := ask_bcnt_of_legal hres c
  simp only [actionsAfterReading, hstatus, hcount, if_true]

/-- A session whose write fails stops there (rule R81). -/
theorem runSession_of_write_error {e : ε} (hr : Answers (.enc p) s r)
    (hok : statusField r = statusOk)
    (haddress : byteResult (ask s.config (.addr a0 a1 a2)) = address)
    (hwrite : bus.write (past ++ [.select address]) address [byteResult r] = .error e) :
    runSession s.config bus a0 a1 a2 p n past
      = { actions := past ++ [.select address, .write address [byteResult r]],
          readings := [], stop := some (.ioError e) } := by
  obtain ⟨hconfigure, -⟩ := ioErrorPropagatesUnchanged ε e s
  rw [← actionsAfterConfigure_ok hr hok haddress]
  apply runSession_error
  subst haddress
  rw [byteResult_ask_addr] at hwrite ⊢
  exact hconfigure _ a0 a1 a2 p r hr hok hwrite

/-- A session whose write succeeds goes on with the readings, at the address written to. -/
theorem runSession_of_write_ok (hr : Answers (.enc p) s r) (hok : statusField r = statusOk)
    (haddress : byteResult (ask s.config (.addr a0 a1 a2)) = address)
    (hwrite : bus.write (past ++ [.select address]) address [byteResult r] = .ok ()) :
    runSession s.config bus a0 a1 a2 p n past
      = takeReadings s.config bus address (requestedRes p) n
          (past ++ [.select address, .write address [byteResult r]]) := by
  rw [← actionsAfterConfigure_ok hr hok haddress]
  apply runSession_ok (configured := { address := address, cfg := byteResult r })
  rw [haddress]
  exact configureConverter_ok hr hok haddress hwrite

/-- Successful readings come before the rest of the readings asked for. -/
theorem takeReadings_add {c : Config} {q : Nat → Response} {k : Nat} {rest : Session ε}
    (hres : res.toNat ∈ [12, 14, 16, 18])
    (hq : ∀ j < k, takeReading c
      (bus.read (past ++ List.replicate j (.read address (frameLength res.toNat)))) address res
        = .ok (q j))
    (hrest : takeReadings c bus address res n
      (past ++ List.replicate k (.read address (frameLength res.toNat))) = rest) :
    takeReadings c bus address res (k + n) past
      = { rest with readings := (List.range k).map q ++ rest.readings } := by
  induction k generalizing n rest with
  | zero =>
    rw [List.replicate_zero, List.append_nil] at hrest
    rw [Nat.zero_add, hrest]
    rfl
  | succ k ih =>
    have hnext := takeReadings_ok (n := n) (hq k (Nat.lt_succ_self k))
    rw [actionsAfterReading_of_legal hres, List.append_assoc, ← List.replicate_succ', hrest]
      at hnext
    rw [Nat.add_right_comm, Nat.add_assoc, ih (fun j hj => hq j (by omega)) hnext,
      List.range_succ, List.map_append, List.append_assoc]
    rfl

end

/-- Settles O48: past the write, the readings that succeed come first; then either none is left or the
next one fails. -/
theorem sessionFollowsTheBootAndUseSequence :
    Obligations.SessionFollowsTheBootAndUseSequence := by
  intro ε s bus a0 a1 a2 p r past address count hr hok haddress hcount
  rw [← byteResult_ask_addr s.config a0 a1 a2, eq_comm] at haddress
  rw [← toNat_requestedRes] at hcount
  subst hcount
  have hres := requestedRes_legal (not_encInvalid_of_answers hr hok)
  refine ⟨fun e n => runSession_of_write_error hr hok haddress,
    fun hwrite bytes buf q k hreads => ?_⟩
  have hq (j : Nat) (hj : j < k) := by
    obtain ⟨hread, hbuf, hproc, hstatus⟩ := hreads j hj
    exact hostReadingIsProcOfTheBytesRead ε s _ _ _ _ _ _ hres hread hbuf hproc hstatus
  refine ⟨?_, fun e n hn hread => ?_⟩
  · have hall := takeReadings_add hres hq takeReadings_zero
    rw [List.append_nil] at hall
    exact (runSession_of_write_ok hr hok haddress hwrite).trans hall
  · obtain ⟨m, rfl⟩ := Nat.exists_eq_add_of_lt hn
    obtain ⟨-, hfail⟩ := ioErrorPropagatesUnchanged ε e s
    have hstop := takeReadings_add (n := m + 1) hres hq
      (takeReadings_error (hfail _ _ _ hres hread))
    rw [actionsAfterReading_of_legal hres, List.append_assoc, ← List.replicate_succ',
      List.append_nil] at hstop
    exact (runSession_of_write_ok hr hok haddress hwrite).trans hstop

end Sys2Proof.Machine
end

section
/-! A table word as the next request: a request word survives its numbering in the table
(`30_encoding.md` rule R31), and a step serves the word presented to it (log entry 4). -/

namespace Sys2Proof

/-- A request word's number, taken as a 48-bit table word, is the word itself (rule R31). -/
@[simp] theorem tableWord_toNat (w : Request) : tableWord 48 w.toNat = w := by
  rw [tableWord, Nat.mod_eq_of_lt w.isLt, BitVec.ofNat_toNat, BitVec.setWidth_eq]

theorem decodeTableWord_toNat_of_decode {w : Request} {i : Instr} (h : decode w = .ok i) :
    decodeTableWord 48 w.toNat = some i := by
  simp only [decodeTableWord, tableWord_toNat, h]

end Sys2Proof

namespace Sys2Proof.Machine

@[simp] theorem State.withFetchWord_toNat (s : State) (w : Request) :
    s.withFetchWord 48 w.toNat = present w s := by
  rw [State.withFetchWord, tableWord_toNat]

/-- A step serves the word just presented, at the state it was presented to. -/
theorem step_present (w : Request) (s : State) : step (present w s) = serve w s :=
  step_cons (present_requests w s)

/-- Settles O33: the table word is the encoded word itself, which decodes to its instruction; the step
serves it by running that instruction. -/
theorem presentedTableWordRuns : Obligations.PresentedTableWordRuns := by
  intro s i hwf
  have hdecode : decode (encode i) = .ok i := decodeOfEncode i hwf
  refine ⟨decodeTableWord_toNat_of_decode hdecode, ?_⟩
  calc step (s.withFetchWord 48 (encode i).toNat)
    _ = step (present (encode i) s) := by rw [State.withFetchWord_toNat]
    _ = serve (encode i) s := step_present (encode i) s
    _ = exec i s := serve_of_decode hdecode s

end Sys2Proof.Machine
end
